-- ==== Sys2Proof/Word.lean ====
section
/-! DEFINITION. The word types of the LSB bit-packer (00_scope R7, R9, R10). -/

namespace Sys2Proof

/-- An unsigned 8-bit value: a pixel, a payload byte (R9, R33, R34). -/
abbrev Byte := BitVec 8

/-- A 32-bit register value, command word or bus data word (R7 `REG_W`, R20, R80). -/
abbrev Word := BitVec 32

/-- A 32-bit byte address on the bus (R7 `ADDR_W`, R50). -/
abbrev Addr := BitVec 32

/-- A value of `{0,1}`, as bit sequences and the bit memory hold it (R10, R35): `true` is 1. -/
abbrev Bit := Bool

end Sys2Proof
end

