-- ==== Sys2Proof/Syntax.lean ====
section
/-! DEFINITION. The commands of LSBP-CMD 1.0, one constructor per row of spec/opcode_table.json (30_encoding R81).
No command carries an operand (R85, R86). -/

namespace Sys2Proof

/-- The eleven commands (R81). -/
inductive Instr where
  /-- BYTES_TO_BITS, OP 0x01 (R102). -/
  | bytesToBits
  /-- BITS_TO_BYTES, OP 0x02 (R103). -/
  | bitsToBytes
  /-- ENCODE_HEADER, OP 0x03 (R124). -/
  | encodeHeader
  /-- DECODE_HEADER, OP 0x04 (R125). -/
  | decodeHeader
  /-- FRAME, OP 0x05 (R126). -/
  | frame
  /-- UNFRAME, OP 0x06 (R127). -/
  | unframe
  /-- CHECK, OP 0x07 (R151). -/
  | check
  /-- EMBED, OP 0x08 (R162). -/
  | embed
  /-- EXTRACT, OP 0x09 (R163). -/
  | extract
  /-- ENCODE, OP 0x0A (R180). -/
  | encode
  /-- DECODE, OP 0x0B (R181). -/
  | decode
  deriving DecidableEq, Repr

end Sys2Proof
end

