-- ==== Sys2Proof/Config.lean ====
section
/-! DEFINITION. What is fixed when the block is built: the named constants of 00_scope R7, the identity
values, the address map, and the free values (values the spec leaves open, R39), which have no body. -/

namespace Sys2Proof

/-- `HDR_BITS`: the header width in bits (R7). -/
def Config.hdrBits : Nat := 32

/-- `BYTE_MAX`: the unsigned-byte maximum (R7). -/
def Config.byteMax : Nat := 255

/-- `LSB_MASK = BYTE_MAX - 1`: keeps bits 7..1 of a pixel (R7). -/
def Config.lsbMask : Byte := BitVec.ofNat 8 (Config.byteMax - 1)

/-- The constant that ID reads as (R21). -/
def Config.idValue : Word := 0x4C534250#32

/-- The constant that VERSION reads as (R22). -/
def Config.versionValue : Word := 0x00010000#32

/-- The first address past the CSR region (R51). -/
def Config.csrEnd : Nat := 0x1000

/-- The size of each window's address range (R52). -/
def Config.windowSpan : Nat := 2 ^ 28

/-- The largest value the parameters `PIX_MAX` and `PAY_MAX` may take (R7). -/
def Config.sizeLimit : Nat := 2 ^ 28

/-- FREE VALUE (R7, PAR1; log entry 5): how far `PIX_MAX` lies above 32. Its type holds the bound `PIX_MAX <= 2^28`. -/
opaque Config.pixExtra : Fin (268435424 + 1)

/-- FREE VALUE (R7, PAR2; log entry 5): how far `PAY_MAX` lies above 1. Its type holds the bound `PAY_MAX <= 2^28`. -/
opaque Config.payExtra : Fin (268435455 + 1)

/-- The open parameter `PIX_MAX`, `32 <= PIX_MAX <= 2^28` (R7). -/
def Config.pixMax : Nat := Config.pixExtra.val + 32

/-- The open parameter `PAY_MAX`, `1 <= PAY_MAX <= 2^28` (R7). -/
def Config.payMax : Nat := Config.payExtra.val + 1

/-- FREE VALUE (R24, R39 (b), PAR3; log entry 4): bit `i` of the filler sequence number `k`. -/
opaque Config.fillBit : Nat → Nat → Bit

/-- FREE VALUE (R39 (a), R242, PAR5; log entry 3): what `PIX[i]` holds after reset number `e` until it is written. -/
opaque Config.pixDraw : Nat → Nat → Byte

/-- FREE VALUE (R39 (a), R242, PAR5; log entry 3): what `PAY[i]` holds after reset number `e` until it is written. -/
opaque Config.payDraw : Nat → Nat → Byte

/-- FREE VALUE (R39 (a), R242, PAR5; log entry 3): what `BIT[i]` holds after reset number `e` until it is written. -/
opaque Config.bitDraw : Nat → Nat → Bit

end Sys2Proof
end

