-- ==== Sys2Proof/Machine/Port.lean ====
section
/-! DEFINITION. What passes through the block's bus port (20_memory R54, R88, R89), and the agents that may move (00_scope R2). -/

namespace Sys2Proof.Machine

/-- The width `n` of a bus transaction: 1, 2 or 4 bytes (R54). -/
inductive Width where
  | byte
  | half
  | word
  deriving DecidableEq, Repr

/-- The width in bytes (R54). -/
def Width.bytes : Width → Nat
  | .byte => 1
  | .half => 2
  | .word => 4

/-- A bus transaction (R54). The data of a write are the low `8n` bits of `data` (log entry 9). -/
inductive BusTxn where
  | read (addr : Addr) (n : Width)
  | write (addr : Addr) (n : Width) (data : Word)
  deriving DecidableEq, Repr

/-- The address of a transaction. -/
def BusTxn.addr : BusTxn → Addr
  | .read a _ => a
  | .write a _ _ => a

/-- The width of a transaction. -/
def BusTxn.width : BusTxn → Width
  | .read _ n => n
  | .write _ n _ => n

/-- What a transaction is answered (R54): a write by `ok`, a read by `okData`, either by BUSERR. -/
inductive BusAnswer where
  | ok
  | okData (data : Word)
  | busErr
  deriving DecidableEq, Repr

/-- One thing the host does: a transaction, the polling loop `wait`, or `halt` (R89). -/
inductive HostOp where
  | txn (t : BusTxn)
  | wait
  | halt
  deriving DecidableEq, Repr

/-- Which agent a step belongs to (R2, R207). The filler source moves within the engine's step. -/
inductive Turn where
  | host
  | engine
  | reset
  deriving DecidableEq, Repr

end Sys2Proof.Machine
end

