-- ==== Sys2Proof/WellFormed.lean ====
section
/-! DEFINITION. The well-formedness checks: of a command, of a bus transaction, of the block's parameters. -/

namespace Sys2Proof

/-- A command has no operand that could be ill-formed: its word has no field but OP (30_encoding R85, R86). -/
def Instr.wf : Instr → Bool
  | .bytesToBits => true
  | .bitsToBytes => true
  | .encodeHeader => true
  | .decodeHeader => true
  | .frame => true
  | .unframe => true
  | .check => true
  | .embed => true
  | .extract => true
  | .encode => true
  | .decode => true

/-- A transaction's data is an `8n`-bit value (20_memory R54). -/
def Machine.BusTxn.wf : Machine.BusTxn → Bool
  | .read _ _ => true
  | .write _ n data => data.toNat < 2 ^ (8 * n.bytes)

/-- The parameters lie within their bounds (00_scope R7). -/
def paramsWf (pixMax payMax : Nat) : Bool :=
  decide (Config.hdrBits ≤ pixMax) && decide (pixMax ≤ Config.sizeLimit) && decide (1 ≤ payMax) &&
    decide (payMax ≤ Config.sizeLimit)

end Sys2Proof
end

