-- ==== Sys2Proof/Decode.lean ====
section
/-! DEFINITION. Decoding a command word (30_encoding R80 to R83), total and rejecting by name, and the encoder. -/

namespace Sys2Proof

/-- Why a word is ILLEGAL (R82, R83). -/
inductive Illegal where
  /-- RSVD, bits 31:8, is not zero. -/
  | reservedBitsSet
  /-- OP is 0x00 or 0x0C..0xFF. -/
  | unassignedOpcode
  deriving DecidableEq, Repr

/-- The field OP, bits 7:0 (R80). -/
def opField (w : Word) : Nat := (w.extractLsb' 0 8).toNat

/-- The field RSVD, bits 31:8 (R80). -/
def rsvdField (w : Word) : Nat := (w.extractLsb' 8 24).toNat

/-- The opcode map (R81). -/
def decodeOp : Nat → Except Illegal Instr
  | 0x01 => .ok .bytesToBits
  | 0x02 => .ok .bitsToBytes
  | 0x03 => .ok .encodeHeader
  | 0x04 => .ok .decodeHeader
  | 0x05 => .ok .frame
  | 0x06 => .ok .unframe
  | 0x07 => .ok .check
  | 0x08 => .ok .embed
  | 0x09 => .ok .extract
  | 0x0A => .ok .encode
  | 0x0B => .ok .decode
  | _ => .error .unassignedOpcode

/-- The decoder, on every word (R82). -/
def decode (w : Word) : Except Illegal Instr :=
  if rsvdField w ≠ 0 then .error .reservedBitsSet else decodeOp (opField w)

/-- The operation code of each command (R81). -/
def opcode : Instr → Nat
  | .bytesToBits => 0x01
  | .bitsToBytes => 0x02
  | .encodeHeader => 0x03
  | .decodeHeader => 0x04
  | .frame => 0x05
  | .unframe => 0x06
  | .check => 0x07
  | .embed => 0x08
  | .extract => 0x09
  | .encode => 0x0A
  | .decode => 0x0B

/-- The word of each command, `0x000000OP` (R81). -/
def encode (i : Instr) : Word := BitVec.ofNat 32 (opcode i)

/-- The command word with the bits of `w`, of which the table gives `nbits`: bits above are 0, and a word is 32 bits (R84). -/
def tableWord (nbits w : Nat) : Word := BitVec.ofNat 32 (w % 2 ^ nbits)

/-- What the decoder reads from a table row's bits. -/
def decodeTableWord (nbits w : Nat) : Option Instr :=
  match decode (tableWord nbits w) with
  | .ok i => some i
  | .error _ => none

end Sys2Proof
end

