-- ==== Sys2Proof/Machine/Memory.lean ====
section
/-! DEFINITION. A memory of cells by index (10_state R33 to R35) as plain data: the cells written since the last
reset, in one canonical form (log entry 3). -/

namespace Sys2Proof.Machine

/-- The cells written since the last reset, each with its value, by rising index. A cell that is not listed has no
value of the list's own: it holds its reset draw (R39 (a), R242). -/
abbrev Memory (α : Type) := List (Nat × α)

/-- The canonical form: indices strictly rising. No entry can equal what an unlisted index gives, which is no value. -/
abbrev Memory.wf {α : Type} (m : Memory α) : Prop := (m.map Prod.fst).Pairwise (· < ·)

/-- Every listed cell exists in a memory of `size` cells (R70). -/
abbrev Memory.within {α : Type} (m : Memory α) (size : Nat) : Prop := ∀ c ∈ m, c.1 < size

/-- The written value of cell `i`, or none where it has not been written since the last reset. -/
def Memory.get {α : Type} : Memory α → Nat → Option α
  | [], _ => none
  | (a, v) :: m, i => if a = i then some v else Memory.get m i

/-- The cells `start, start+1, ...` with the values of a list. -/
def Memory.block {α : Type} (start : Nat) : List α → Memory α
  | [] => []
  | v :: vs => (start, v) :: Memory.block (start + 1) vs

/-- Writes the values of a list to the cells `start, start+1, ...`, and nothing else (R57, R11). -/
def Memory.write {α : Type} (m : Memory α) (start : Nat) (vs : List α) : Memory α :=
  m.filter (fun c => c.1 < start) ++ Memory.block start vs ++ m.filter (fun c => start + vs.length ≤ c.1)

end Sys2Proof.Machine
end

