-- ==== Sys2Proof/Machine/State.lean ====
section
/-! DEFINITION. The state of the block (10_state), as plain data, and the state after reset (70_reset_and_hazards R240, R242). -/

namespace Sys2Proof.Machine

/-- The result codes of STATUS.ERRCODE, exactly these eight (R200). -/
inductive ErrCode where
  | ok
  | capacityExceeded
  | malformedLength
  | truncatedPayload
  | headerCorrupt
  | lengthMismatch
  | lengthRange
  | illegalCommand
  deriving DecidableEq, Repr

/-- The command in flight: `CUR_CMD` and `CUR_FILL` (R38). -/
structure InFlight where
  word : Word
  fill : Bool
  deriving DecidableEq, Repr

/-- Why the machine stops: it never does. Every error of the spec is a result code (R200) or a BUSERR answer (R58),
after which the block goes on, so there is no constructor (log entry 15). -/
inductive Fault where
  deriving DecidableEq, Repr

/-- Why a command has no meaning. -/
inductive Refusal where
  /-- An arm of `exec` that gives its command no meaning yet, by the command's mnemonic (safe). No arm of this model raises it. -/
  | notModelled (mnemonic : String)
  deriving DecidableEq, Repr

/-- The block's state, then the environment's. -/
@[ext]
structure State where
  /-- PIXMAX, the parameter `PIX_MAX` of this block: no step changes it (R23, R7; log entry 5). -/
  pixMax : Nat
  /-- PAYMAX, the parameter `PAY_MAX` of this block: no step changes it (R23, R7; log entry 5). -/
  payMax : Nat
  /-- CTRL.IRQEN (R24). -/
  irqen : Bool
  /-- CTRL.FILL: false is the zero filler, true the external filler (R24). -/
  fill : Bool
  /-- STATUS.DONE (R26). -/
  done : Bool
  /-- STATUS.ERRCODE (R26, R200). -/
  errcode : ErrCode
  /-- PIXCNT (R28). -/
  pixcnt : Word
  /-- PAYLEN (R29). -/
  paylen : Word
  /-- BITLEN (R30). -/
  bitlen : Word
  /-- HDRVAL (R31). -/
  hdrval : Word
  /-- The pixel memory PIX (R33). -/
  pix : Memory Byte
  /-- The payload memory PAY (R34). -/
  pay : Memory Byte
  /-- The bit memory BIT (R35). -/
  bit : Memory Bit
  /-- `CUR_CMD` and `CUR_FILL` while STATUS.BUSY = 1, nothing while it is 0 (R38; log entry 6). -/
  inFlight : Option InFlight
  /-- The model's own: how many reset steps there have been (log entry 3). -/
  epoch : Nat
  /-- The model's own: how many filler sequences have been drawn (log entry 4). -/
  fillCount : Nat
  /-- The model's own: what the host is still going to do, next first (R2 (a); log entries 1 and 10). -/
  hostOps : List HostOp
  /-- The model's own: whether the host has executed `halt` and so issues no further transaction (R89, R263; log entry 11). -/
  halted : Bool
  /-- The model's own: which agent makes each of the next steps (R207, R262; log entry 1). -/
  turns : List Turn
  /-- The model's own: the answers the bus has given, newest first (R54; log entry 8). -/
  answers : List BusAnswer
  deriving DecidableEq, Repr

/-- The block right after power-on reset (R240, R242): every CSR at its reset value, no cell written, no command in
flight; the model's own fields at the values of log entries 1, 3, 4, 8 and 11. -/
def State.reset : State where
  pixMax := Config.pixMax
  payMax := Config.payMax
  irqen := false
  fill := false
  done := false
  errcode := .ok
  pixcnt := 0#32
  paylen := 0#32
  bitlen := 0#32
  hdrval := 0#32
  pix := []
  pay := []
  bit := []
  inFlight := none
  epoch := 0
  fillCount := 0
  hostOps := []
  halted := false
  turns := []
  answers := []

end Sys2Proof.Machine
end

