-- ==== Sys2Proof/Machine/Codec.lean ====
section
/-! DEFINITION. The pure functions of the codec (00_scope R12): each rule's value as a total function, and the
function with its failure as the rule states it. -/

namespace Sys2Proof.Machine

/-- The eight bits of a byte, most significant first (R100). -/
def byteBits (b : Byte) : List Bit := (List.range 8).map (fun k => b.getLsbD (7 - k))

/-- `bytes_to_bits(s)` (R100). -/
def bytesToBits (s : List Byte) : List Bit := s.flatMap byteBits

/-- The byte of eight bits, most significant first: the sum of `b[k] << (7 - k)` (R101). -/
def bitsByte (b0 b1 b2 b3 b4 b5 b6 b7 : Bit) : Byte :=
  BitVec.ofNat 8 (128 * b0.toNat + 64 * b1.toNat + 32 * b2.toNat + 16 * b3.toNat + 8 * b4.toNat + 4 * b5.toNat
    + 2 * b6.toNat + b7.toNat)

/-- The bytes of a bit sequence, eight bits each in input order; bits left over at the end give none (R101). -/
def packBits : List Bit → List Byte
  | b0 :: b1 :: b2 :: b3 :: b4 :: b5 :: b6 :: b7 :: rest => bitsByte b0 b1 b2 b3 b4 b5 b6 b7 :: packBits rest
  | _ => []

/-- `bits_to_bytes(b)` (R101). -/
def bitsToBytes (b : List Bit) : Except ErrCode (List Byte) :=
  if b.length % 8 ≠ 0 then .error .malformedLength else .ok (packBits b)

/-- The four bytes of a word, least significant first (R63 (b), R120). -/
def wordBytes (v : Word) : List Byte :=
  [v.extractLsb' 0 8, v.extractLsb' 8 8, v.extractLsb' 16 8, v.extractLsb' 24 8]

/-- The word of a list of bytes, least significant first (R56, R63). -/
def leWord : List Byte → Word
  | [] => 0#32
  | b :: bs => b.setWidth 32 ||| (leWord bs <<< 8)

/-- `encode_header(n)` (R120). -/
def encodeHeader (n : Word) : List Bit := bytesToBits (wordBytes n)

/-- The header value of the first 32 bits of a sequence (R121). -/
def headerValue (b : List Bit) : Word := leWord (packBits (b.take Config.hdrBits))

/-- `decode_header(b)` (R121). -/
def decodeHeader (b : List Bit) : Except ErrCode Word :=
  if b.length < Config.hdrBits then .error .headerCorrupt else .ok (headerValue b)

/-- `encode_header(len(p)) ++ p ++ z` (R122). -/
def frameBits (p z : List Bit) : List Bit := encodeHeader (BitVec.ofNat 32 p.length) ++ p ++ z

/-- `frame(p, c, z)`, for a filler `z` of length `c - 32 - len(p)` (R122). -/
def frame (p : List Bit) (c : Nat) (z : List Bit) : Except ErrCode (List Bit) :=
  if p.length + Config.hdrBits > c then .error .capacityExceeded else .ok (frameBits p z)

/-- `f[32..32+L)` (R123). -/
def framePayload (f : List Bit) (n : Nat) : List Bit := (f.drop Config.hdrBits).take n

/-- `unframe(f)` (R123). -/
def unframe (f : List Bit) : Except ErrCode (Nat × List Bit) :=
  if f.length < Config.hdrBits then .error .headerCorrupt
  else if (headerValue f).toNat + Config.hdrBits > f.length then .error .truncatedPayload
  else .ok ((headerValue f).toNat, framePayload f (headerValue f).toNat)

/-- The condition under which the capacity guard fails: `b + 32 >= n` on exact integers (R150). -/
def guardRejects (b n : Nat) : Bool := decide (b + Config.hdrBits ≥ n)

/-- `check(b, n)` (R150). -/
def check (b n : Nat) : Except ErrCode Unit := if guardRejects b n then .error .capacityExceeded else .ok ()

/-- `(x & LSB_MASK) | f` for one pixel (R160). -/
def embedByte (x : Byte) (f : Bit) : Byte := (x &&& Config.lsbMask) ||| (BitVec.ofBool f).setWidth 8

/-- `embed(x, f)`, for sequences of the same length (R160). -/
def embed (x : List Byte) (f : List Bit) : List Byte := List.zipWith embedByte x f

/-- `x & 1` for one pixel (R161). -/
def extractByte (x : Byte) : Bit := x.getLsbD 0

/-- `extract(x)` (R161). -/
def extract (x : List Byte) : List Bit := x.map extractByte

end Sys2Proof.Machine
end

