-- ==== Sys2Proof/Machine/Flags.lean ====
section
/-! DEFINITION. The flags: STATUS, CTRL and the interrupt output as they are read (10_state R24, R26, R37; 60_exceptions R200, R213). -/

namespace Sys2Proof.Machine

/-- The number of a result code (R200). -/
def ErrCode.code : ErrCode → Nat
  | .ok => 0x0
  | .capacityExceeded => 0x1
  | .malformedLength => 0x2
  | .truncatedPayload => 0x3
  | .headerCorrupt => 0x4
  | .lengthMismatch => 0x5
  | .lengthRange => 0x6
  | .illegalCommand => 0x7

/-- STATUS.BUSY: 1 from the acceptance of a command to its completion (R26, R38; log entry 6). -/
def State.busy (s : State) : Bool := s.inFlight.isSome

/-- STATUS as it is read: BUSY in bit 0, DONE in bit 1, ERRCODE in bits 7:4, reserved bits 0 (R26). -/
def State.statusWord (s : State) : Word :=
  BitVec.ofNat 32 (s.errcode.code * 16 + s.done.toNat * 2 + s.busy.toNat)

/-- CTRL as it is read: IRQEN in bit 0, FILL in bit 1, reserved bits 0 (R24). -/
def State.ctrlWord (s : State) : Word := BitVec.ofNat 32 (s.fill.toNat * 2 + s.irqen.toNat)

/-- The interrupt output, `STATUS.DONE & CTRL.IRQEN` at every moment (R213). -/
def State.irq (s : State) : Bool := s.done && s.irqen

end Sys2Proof.Machine
end

