-- ==== Sys2Proof/Machine/Ops.lean ====
section
/-! DEFINITION. The shared operations over registers and memories: reading and writing cells, the life cycle of a
command (60_exceptions R209 to R214) and the reset step (70_reset_and_hazards R240 to R243). -/

namespace Sys2Proof.Machine

/-- `BIT_MAX = PIX_MAX`: the size of the bit memory in cells (00_scope R7). -/
def State.bitMax (s : State) : Nat := s.pixMax

/-- `PIX[i]`: its written value, else its draw since the last reset (R33, R39 (a)). -/
def State.pixCell (s : State) (i : Nat) : Byte := (s.pix.get i).getD (Config.pixDraw s.epoch i)

/-- `PAY[i]` (R34, R39 (a)). -/
def State.payCell (s : State) (i : Nat) : Byte := (s.pay.get i).getD (Config.payDraw s.epoch i)

/-- `BIT[i]` (R35, R39 (a)). -/
def State.bitCell (s : State) (i : Nat) : Bit := (s.bit.get i).getD (Config.bitDraw s.epoch i)

/-- `PIX[start], PIX[start+1], ... <-` the values of a list. -/
def State.writePix (s : State) (start : Nat) (vs : List Byte) : State := { s with pix := s.pix.write start vs }

/-- `PAY[start], PAY[start+1], ... <-` the values of a list. -/
def State.writePay (s : State) (start : Nat) (vs : List Byte) : State := { s with pay := s.pay.write start vs }

/-- `BIT[start], BIT[start+1], ... <-` the values of a list. -/
def State.writeBit (s : State) (start : Nat) (vs : List Bit) : State := { s with bit := s.bit.write start vs }

/-- `PIXCNT <- v` (R28). -/
def State.setPixcnt (s : State) (v : Word) : State := { s with pixcnt := v }

/-- `PAYLEN <- v` (R29). -/
def State.setPaylen (s : State) (v : Word) : State := { s with paylen := v }

/-- `BITLEN <- v` (R30). -/
def State.setBitlen (s : State) (v : Word) : State := { s with bitlen := v }

/-- `HDRVAL <- v` (R31). -/
def State.setHdrval (s : State) (v : Word) : State := { s with hdrval := v }

/-- A host write of `v` to CTRL: bits 0 and 1 are stored, the others discarded (R24). -/
def State.setCtrl (s : State) (v : Word) : State := { s with irqen := v.getLsbD 0, fill := v.getLsbD 1 }

/-- A host write of `v` to STATUS: DONE is cleared when bit 1 of `v` is 1, all other bits are ignored (R26). This is
how the host ends the handling of a completion (R214). -/
def State.clearDone (s : State) (v : Word) : State := { s with done := s.done && !v.getLsbD 1 }

/-- Acceptance of the command word `w` (R209). -/
def State.accept (s : State) (w : Word) : State :=
  { s with inFlight := some { word := w, fill := s.fill }, done := false, errcode := .ok }

/-- What every completion writes (R210): BUSY 0 and with it CUR_CMD and CUR_FILL discarded (R203), DONE 1, ERRCODE. -/
def State.complete (s : State) (c : ErrCode) : State := { s with inFlight := none, done := true, errcode := c }

/-- `raise Error(c)`: the error completion, the block's whole trap entry, which changes only STATUS (R211). -/
def raise (c : ErrCode) (s : State) : Host.Outcome State Fault Refusal := .next (s.complete c)

/-- The successful completion of a command whose commit gives `s` (R210). -/
def commit (s : State) : Host.Outcome State Fault Refusal := .next (s.complete .ok)

/-- Completion of a word that decodes as ILLEGAL (R205). -/
def illegalCompletion (s : State) : Host.Outcome State Fault Refusal := raise .illegalCommand s

/-- A reset step (R240, R242, R243): every CSR takes its reset value, a command in flight is dropped, and every cell
of the memories takes a new draw. The build's parameters stay, and so do the model's own fields (log entry 7). -/
def State.resetStep (s : State) : State :=
  { State.reset with
    pixMax := s.pixMax, payMax := s.payMax, epoch := s.epoch + 1, fillCount := s.fillCount
    hostOps := s.hostOps, halted := s.halted, turns := s.turns, answers := s.answers }

/-- Whose move the next step is: the next entry of `turns`; where there is none, a busy engine's, else the host's (log entry 1). -/
def State.nextTurn (s : State) : Turn :=
  match s.turns with
  | t :: _ => t
  | [] => if s.busy then .engine else .host

/-- The state with that entry of `turns` used up. -/
def State.popTurn (s : State) : State := { s with turns := s.turns.tail }

end Sys2Proof.Machine
end

