-- ==== Sys2Proof/Machine/Operands.lean ====
section
/-! DEFINITION. The implicit operands of the commands (30_encoding R85, R86): lengths as exact integers (00_scope R9),
slices of the memories, and the filler (10_state R24, R38). -/

namespace Sys2Proof.Machine

/-- `N = PIXCNT`, the pixel count (R28). -/
def State.opN (s : State) : Nat := s.pixcnt.toNat

/-- `P = PAYLEN`, the payload length in bytes (R29). -/
def State.opP (s : State) : Nat := s.paylen.toNat

/-- `B = BITLEN`, the length of the bit sequence (R30). -/
def State.opB (s : State) : Nat := s.bitlen.toNat

/-- `PIX[0..n)` (R11). -/
def State.pixTo (s : State) (n : Nat) : List Byte := (List.range n).map s.pixCell

/-- `PAY[0..n)` (R11). -/
def State.payTo (s : State) (n : Nat) : List Byte := (List.range n).map s.payCell

/-- `BIT[0..n)` (R11). -/
def State.bitTo (s : State) (n : Nat) : List Bit := (List.range n).map s.bitCell

/-- `F = CUR_FILL`, sampled at acceptance (R38). With no command in flight, which no step of the engine meets, it is
CTRL.FILL, as an acceptance now would sample it (log entry 6). -/
def State.curFill (s : State) : Bool :=
  match s.inFlight with
  | some c => c.fill
  | none => s.fill

/-- `zeros(n)` (R10). -/
def zeros (n : Nat) : List Bit := List.replicate n false

/-- `draw_fill(n)`: the filler sequence number `k` cut to length `n` (R11, R24; log entry 4). -/
def drawFill (k n : Nat) : List Bit := (List.range n).map (Config.fillBit k)

/-- The filler of length `n`: zeros when CUR_FILL = 0, a draw when it is 1 (R24, R126, R180). -/
def State.filler (s : State) (n : Nat) : List Bit := if s.curFill then drawFill s.fillCount n else zeros n

/-- A completion that drew a filler sequence leaves the next draw a new one (R39 (b); log entry 4). -/
def State.usedFiller (s : State) : State := { s with fillCount := s.fillCount + s.curFill.toNat }

end Sys2Proof.Machine
end

