-- ==== Sys2Proof/Machine/Bus.lean ====
section
/-! DEFINITION. The bus port: the address map, the decision of a transaction and its effect (20_memory R50 to R65,
10_state R20 to R32), and the host's step (00_scope R2 (a), 30_encoding R89). -/

namespace Sys2Proof.Machine

/-- The CSRs (R20). -/
inductive Csr where
  | id
  | version
  | pixmax
  | paymax
  | ctrl
  | status
  | cmd
  | pixcnt
  | paylen
  | bitlen
  | hdrval
  deriving DecidableEq, Repr

/-- The memory windows (R52). -/
inductive Window where
  | pixw
  | payw
  | bitw
  deriving DecidableEq, Repr

/-- What a mapped address reaches. -/
inductive Target where
  | csr (r : Csr)
  | cell (w : Window) (i : Nat)
  deriving DecidableEq, Repr

/-- The byte offset of each CSR (R20). -/
def Csr.offset : Csr → Nat
  | .id => 0x000
  | .version => 0x004
  | .pixmax => 0x008
  | .paymax => 0x00C
  | .ctrl => 0x010
  | .status => 0x014
  | .cmd => 0x018
  | .pixcnt => 0x020
  | .paylen => 0x024
  | .bitlen => 0x028
  | .hdrval => 0x02C

/-- The CSR at an offset of the CSR region; every other offset is unmapped (R20, R32). -/
def csrAt : Nat → Option Csr
  | 0x000 => some .id
  | 0x004 => some .version
  | 0x008 => some .pixmax
  | 0x00C => some .paymax
  | 0x010 => some .ctrl
  | 0x014 => some .status
  | 0x018 => some .cmd
  | 0x020 => some .pixcnt
  | 0x024 => some .paylen
  | 0x028 => some .bitlen
  | 0x02C => some .hdrval
  | _ => none

/-- The base address of each window (R52). -/
def Window.base : Window → Nat
  | .pixw => 0x10000000
  | .payw => 0x20000000
  | .bitw => 0x30000000

/-- The number of mapped bytes of each window (R52). -/
def State.windowSize (s : State) : Window → Nat
  | .pixw => s.pixMax
  | .payw => s.payMax
  | .bitw => s.bitMax

/-- The window whose range holds an address, mapped or not (R52, R53). -/
def windowOf (a : Nat) : Option Window :=
  if Window.pixw.base ≤ a ∧ a < Window.pixw.base + Config.windowSpan then some .pixw
  else if Window.payw.base ≤ a ∧ a < Window.payw.base + Config.windowSpan then some .payw
  else if Window.bitw.base ≤ a ∧ a < Window.bitw.base + Config.windowSpan then some .bitw
  else none

/-- Check (1) of R55: what the address reaches, if it is mapped (R51 to R53). A byte address inside a CSR's four
bytes reaches that CSR (log entry 12). -/
def State.target (s : State) (a : Nat) : Option Target :=
  if a < Config.csrEnd then (csrAt (4 * (a / 4))).map .csr
  else
    match windowOf a with
    | some w => if a - w.base < s.windowSize w then some (.cell w (a - w.base)) else none
    | none => none

/-- Check (2) of R55: CSR accesses are 4 bytes wide at a multiple of 4 (R61); window accesses are aligned, with their
last byte mapped too (R59). -/
def State.legalShape (s : State) (a : Nat) (n : Width) : Target → Bool
  | .csr _ => decide (n = .word) && decide (a % 4 = 0)
  | .cell w i => decide (a % n.bytes = 0) && decide (i + n.bytes ≤ s.windowSize w)

/-- Check (3) of R55: what is locked out while BUSY = 1 (R20, R60). -/
def Target.locked : Target → Bool
  | .csr .id => false
  | .csr .version => false
  | .csr .pixmax => false
  | .csr .paymax => false
  | .csr .ctrl => false
  | .csr .status => false
  | .csr .cmd => true
  | .csr .pixcnt => true
  | .csr .paylen => true
  | .csr .bitlen => true
  | .csr .hdrval => true
  | .cell _ _ => true

/-- Check (4) of R55: what a write may reach; reads may reach everything (R20 to R31). -/
def Target.writable : Target → Bool
  | .csr .id => false
  | .csr .version => false
  | .csr .pixmax => false
  | .csr .paymax => false
  | .csr .ctrl => true
  | .csr .status => true
  | .csr .cmd => true
  | .csr .pixcnt => true
  | .csr .paylen => true
  | .csr .bitlen => true
  | .csr .hdrval => true
  | .cell _ _ => true

/-- The decision of a transaction in the order of R55: what it reaches, or none where it is answered BUSERR. -/
def State.access (s : State) (a : Nat) (n : Width) (isWrite : Bool) : Option Target :=
  match s.target a with
  | none => none
  | some t =>
    if !s.legalShape a n t then none
    else if s.busy && t.locked then none
    else if isWrite && !t.writable then none
    else some t

/-- The value a CSR reads as (R21 to R31); CMD reads as 0 (R27). -/
def State.csrRead (s : State) : Csr → Word
  | .id => Config.idValue
  | .version => Config.versionValue
  | .pixmax => BitVec.ofNat 32 s.pixMax
  | .paymax => BitVec.ofNat 32 s.payMax
  | .ctrl => s.ctrlWord
  | .status => s.statusWord
  | .cmd => 0#32
  | .pixcnt => s.pixcnt
  | .paylen => s.paylen
  | .bitlen => s.bitlen
  | .hdrval => s.hdrval

/-- A permitted write to a CSR (R24, R26, R27 to R31); a read-only CSR is never reached (R55 (4)). -/
def State.csrWrite (s : State) (v : Word) : Csr → State
  | .id => s
  | .version => s
  | .pixmax => s
  | .paymax => s
  | .ctrl => s.setCtrl v
  | .status => s.clearDone v
  | .cmd => s.accept v
  | .pixcnt => s.setPixcnt v
  | .paylen => s.setPaylen v
  | .bitlen => s.setBitlen v
  | .hdrval => s.setHdrval v

/-- The byte at which the host sees cell `j` of a window (R56, R62). -/
def State.windowByte (s : State) (w : Window) (j : Nat) : Byte :=
  match w with
  | .pixw => s.pixCell j
  | .payw => s.payCell j
  | .bitw => (BitVec.ofBool (s.bitCell j)).setWidth 8

/-- `MemRead(base + i, n)`: the little-endian value of `n` cells (R56). -/
def State.windowRead (s : State) (w : Window) (i : Nat) (n : Width) : Word :=
  leWord ((List.range n.bytes).map (fun k => s.windowByte w (i + k)))

/-- The bytes `b_k = v[8k+7 : 8k]` of a write of `n` bytes (R57). -/
def dataBytes (n : Width) (v : Word) : List Byte := (wordBytes v).take n.bytes

/-- `MemWrite(base + i, n, v)` (R57). -/
def State.windowWrite (s : State) (w : Window) (i : Nat) (n : Width) (v : Word) : State :=
  match w with
  | .pixw => s.writePix i (dataBytes n v)
  | .payw => s.writePay i (dataBytes n v)
  | .bitw => s.writeBit i (extract (dataBytes n v))

/-- A read: it has no effect, only an answer (R56, R61, R64). -/
def State.busRead (s : State) (a : Addr) (n : Width) : BusAnswer :=
  match s.access a.toNat n false with
  | none => .busErr
  | some (.csr r) => .okData (s.csrRead r)
  | some (.cell w i) => .okData (s.windowRead w i n)

/-- A write that is answered OK has its effect, one answered BUSERR has none (R57, R58). -/
def State.busWrite (s : State) (a : Addr) (n : Width) (v : Word) : State × BusAnswer :=
  match s.access a.toNat n true with
  | none => (s, .busErr)
  | some (.csr r) => (s.csrWrite v r, .ok)
  | some (.cell w i) => (s.windowWrite w i n v, .ok)

/-- One whole transaction: the state it leaves and its answer (R55). -/
def State.transact (s : State) : BusTxn → State × BusAnswer
  | .read a n => (s, s.busRead a n)
  | .write a n v => s.busWrite a n v

/-- The address of a CSR: the CSR region begins at address 0 (R51). -/
def Csr.addr (r : Csr) : Addr := BitVec.ofNat 32 r.offset

/-- Whether a poll of STATUS says that the host must poll again: bit 0 of the answer is 1 (R89 `wait`). -/
def pollAgain : BusAnswer → Bool
  | .ok => false
  | .okData v => v.getLsbD 0
  | .busErr => false

/-- The host goes on with the operations `rest`, having been answered `r`. -/
def State.answered (s : State) (rest : List HostOp) (r : BusAnswer) : State :=
  { s with hostOps := rest, answers := r :: s.answers }

/-- The host has executed `halt`, the operations `rest` standing after it in its program (R89; log entry 11). -/
def State.halt (s : State) (rest : List HostOp) : State := { s with hostOps := rest, halted := true }

/-- One step of the host: its next transaction, or one poll of a `wait`, or `halt`, after which it issues no further
transaction (R55, R89; log entry 11). A host that has nothing to do leaves everything as it is (log entry 2). -/
def State.hostStep (s : State) : State :=
  if s.halted then s
  else
    match s.hostOps with
    | [] => s
    | .txn t :: rest => (s.transact t).1.answered rest (s.transact t).2
    | .wait :: rest =>
      if pollAgain (s.busRead Csr.status.addr .word) then s.answered (.wait :: rest) (s.busRead Csr.status.addr .word)
      else s.answered rest (s.busRead Csr.status.addr .word)
    | .halt :: rest => s.halt rest

end Sys2Proof.Machine
end

