-- ==== Sys2Proof/Machine/BitConverter.lean ====
section
/-! DEFINITION. The BitConverter commands (41_bitconverter). -/

namespace Sys2Proof.Machine

/-- BYTES_TO_BITS (R102). -/
def execBytesToBits (s : State) : Host.Outcome State Fault Refusal :=
  if s.opP > s.payMax then raise .lengthRange s
  else if 8 * s.opP > s.bitMax then raise .lengthRange s
  else commit ((s.writeBit 0 (bytesToBits (s.payTo s.opP))).setBitlen (BitVec.ofNat 32 (8 * s.opP)))

/-- BITS_TO_BYTES (R103). -/
def execBitsToBytes (s : State) : Host.Outcome State Fault Refusal :=
  if s.opB > s.bitMax then raise .lengthRange s
  else if s.opB % 8 ≠ 0 then raise .malformedLength s
  else if s.opB / 8 > s.payMax then raise .lengthRange s
  else commit ((s.writePay 0 (packBits (s.bitTo s.opB))).setPaylen (BitVec.ofNat 32 (s.opB / 8)))

end Sys2Proof.Machine
end

