-- ==== Sys2Proof/Machine/Framer.lean ====
section
/-! DEFINITION. The PayloadFramer commands (42_framer). -/

namespace Sys2Proof.Machine

/-- ENCODE_HEADER (R124). -/
def execEncodeHeader (s : State) : Host.Outcome State Fault Refusal :=
  commit ((s.writeBit 0 (encodeHeader s.hdrval)).setBitlen (BitVec.ofNat 32 Config.hdrBits))

/-- DECODE_HEADER (R125). -/
def execDecodeHeader (s : State) : Host.Outcome State Fault Refusal :=
  if s.opB > s.bitMax then raise .lengthRange s
  else if s.opB < Config.hdrBits then raise .headerCorrupt s
  else commit (s.setHdrval (headerValue (s.bitTo Config.hdrBits)))

/-- FRAME (R126). -/
def execFrame (s : State) : Host.Outcome State Fault Refusal :=
  if s.opB > s.bitMax then raise .lengthRange s
  else if s.opN > s.pixMax then raise .lengthRange s
  else if s.opB + Config.hdrBits > s.opN then raise .capacityExceeded s
  else commit (((s.writeBit 0 (frameBits (s.bitTo s.opB) (s.filler (s.opN - Config.hdrBits - s.opB)))).setBitlen
    s.pixcnt).setHdrval s.bitlen).usedFiller

/-- The header value `L` that UNFRAME reads from the bit memory (R127). -/
def State.bitHeader (s : State) : Word := headerValue (s.bitTo Config.hdrBits)

/-- UNFRAME (R127). -/
def execUnframe (s : State) : Host.Outcome State Fault Refusal :=
  if s.opB > s.bitMax then raise .lengthRange s
  else if s.opB < Config.hdrBits then raise .headerCorrupt s
  else if s.bitHeader.toNat + Config.hdrBits > s.opB then raise .truncatedPayload s
  else commit (((s.writeBit 0 (framePayload (s.bitTo s.opB) s.bitHeader.toNat)).setBitlen s.bitHeader).setHdrval
    s.bitHeader)

end Sys2Proof.Machine
end

