-- ==== Sys2Proof/Machine/Guard.lean ====
section
/-! DEFINITION. The CapacityGuard command (43_guard). -/

namespace Sys2Proof.Machine

/-- CHECK (R151). -/
def execCheck (s : State) : Host.Outcome State Fault Refusal :=
  if s.opB > s.bitMax then raise .lengthRange s
  else if s.opN > s.pixMax then raise .lengthRange s
  else if guardRejects s.opB s.opN then raise .capacityExceeded s
  else commit s

end Sys2Proof.Machine
end

