-- ==== Sys2Proof/Machine/LsbCodec.lean ====
section
/-! DEFINITION. The LsbCodec commands (44_lsbcodec). -/

namespace Sys2Proof.Machine

/-- EMBED (R162). -/
def execEmbed (s : State) : Host.Outcome State Fault Refusal :=
  if s.opB > s.bitMax then raise .lengthRange s
  else if s.opN > s.pixMax then raise .lengthRange s
  else if s.opB ≠ s.opN then raise .lengthMismatch s
  else commit (s.writePix 0 (embed (s.pixTo s.opN) (s.bitTo s.opN)))

/-- EXTRACT (R163). -/
def execExtract (s : State) : Host.Outcome State Fault Refusal :=
  if s.opN > s.pixMax then raise .lengthRange s
  else commit ((s.writeBit 0 (extract (s.pixTo s.opN))).setBitlen s.pixcnt)

end Sys2Proof.Machine
end

