-- ==== Sys2Proof/Machine/Pipeline.lean ====
section
/-! DEFINITION. The pipeline commands (45_pipeline). -/

namespace Sys2Proof.Machine

/-- The framed sequence that ENCODE embeds (R180). -/
def State.encodedFrame (s : State) : List Bit :=
  frameBits (bytesToBits (s.payTo s.opP)) (s.filler (s.opN - Config.hdrBits - 8 * s.opP))

/-- ENCODE (R180). -/
def execEncode (s : State) : Host.Outcome State Fault Refusal :=
  if s.opP > s.payMax then raise .lengthRange s
  else if s.opN > s.pixMax then raise .lengthRange s
  else if guardRejects (8 * s.opP) s.opN then raise .capacityExceeded s
  else commit (((((s.writePix 0 (embed (s.pixTo s.opN) s.encodedFrame)).writeBit 0 s.encodedFrame).setBitlen
    s.pixcnt).setHdrval (BitVec.ofNat 32 (8 * s.opP))).usedFiller)

/-- The header value `L` that DECODE reads from bit plane 0 of the carrier (R181). -/
def State.pixHeader (s : State) : Word := headerValue (extract (s.pixTo Config.hdrBits))

/-- DECODE's payload bits, `e[32..32+L)` for the extracted sequence `e` (R181). -/
def State.decodedBits (s : State) : List Bit := framePayload (extract (s.pixTo s.opN)) s.pixHeader.toNat

/-- DECODE (R181). -/
def execDecode (s : State) : Host.Outcome State Fault Refusal :=
  if s.opN > s.pixMax then raise .lengthRange s
  else if s.opN < Config.hdrBits then raise .headerCorrupt s
  else if s.pixHeader.toNat + Config.hdrBits > s.opN then raise .truncatedPayload s
  else if s.pixHeader.toNat % 8 ≠ 0 then raise .malformedLength s
  else if s.pixHeader.toNat / 8 > s.payMax then raise .lengthRange s
  else commit (((((s.writeBit 0 (s.decodedBits ++ (extract (s.pixTo s.opN)).drop s.pixHeader.toNat)).setBitlen
    s.pixHeader).setHdrval s.pixHeader).writePay 0 (packBits s.decodedBits)).setPaylen
    (BitVec.ofNat 32 (s.pixHeader.toNat / 8)))

end Sys2Proof.Machine
end

