-- ==== Sys2Proof/Machine/Dispatch.lean ====
section
/-! DEFINITION. The completion of each command (60_exceptions R210), one arm per command. -/

namespace Sys2Proof.Machine

def exec (i : Instr) (s : State) : Host.Outcome State Fault Refusal :=
  match i with
  -- 41_bitconverter
  | .bytesToBits => Sys2Proof.Machine.execBytesToBits s
  | .bitsToBytes => Sys2Proof.Machine.execBitsToBytes s
  -- 42_framer
  | .encodeHeader => Sys2Proof.Machine.execEncodeHeader s
  | .decodeHeader => Sys2Proof.Machine.execDecodeHeader s
  | .frame => Sys2Proof.Machine.execFrame s
  | .unframe => Sys2Proof.Machine.execUnframe s
  -- 43_guard
  | .check => Sys2Proof.Machine.execCheck s
  -- 44_lsbcodec
  | .embed => Sys2Proof.Machine.execEmbed s
  | .extract => Sys2Proof.Machine.execExtract s
  -- 45_pipeline
  | .encode => Sys2Proof.Machine.execEncode s
  | .decode => Sys2Proof.Machine.execDecode s

end Sys2Proof.Machine
end

