-- ==== Sys2Proof/Machine/HostAsm.lean ====
section
/-! DEFINITION. The host's assembly: one transaction a line, and the pseudo-instructions (30_encoding R88, R89). -/

namespace Sys2Proof.Machine

/-- A line of a host program, its symbols already replaced by addresses (R88, R89). -/
inductive HostLine where
  | wr (x : Addr) (v : Word)
  | wrh (x : Addr) (v : BitVec 16)
  | wrb (x : Addr) (v : Byte)
  | rd (x : Addr)
  | rdh (x : Addr)
  | rdb (x : Addr)
  | cmd (m : Instr)
  | wait
  | run (m : Instr)
  | ack
  | bytes (x : Addr) (bs : List Byte)
  | bits (k : Nat) (b : List Bit)
  | halt
  deriving DecidableEq, Repr

/-- The base address of a window as a symbol (R88). -/
def Window.addr (w : Window) : Addr := BitVec.ofNat 32 w.base

/-- A one-byte write (R88 `wrb`). -/
def wrbOp (x : Addr) (v : Byte) : HostOp := .txn (.write x .byte (v.setWidth 32))

/-- `wrb X+0, b0`, `wrb X+1, b1`, ... (R89 `bytes`, `bits`). DESIGN CHOICE, unsafe (log entry 13): an address past
`2^32 - 1`, to which no rule gives a meaning, is taken modulo `2^32`. -/
def wrbOps (x : Addr) : List Byte → List HostOp
  | [] => []
  | b :: bs => wrbOp x b :: wrbOps (x + 1#32) bs

/-- `wr CMD, op(M)` (R89 `cmd`). -/
def cmdOp (m : Instr) : HostOp := .txn (.write Csr.cmd.addr .word (encode m))

/-- What a line stands for (R88, R89). In `bits` the sum `BITW + k` is an address too: DESIGN CHOICE, unsafe (log
entry 13), it is taken modulo `2^32`. -/
def HostLine.expand : HostLine → List HostOp
  | .wr x v => [.txn (.write x .word v)]
  | .wrh x v => [.txn (.write x .half (v.setWidth 32))]
  | .wrb x v => [wrbOp x v]
  | .rd x => [.txn (.read x .word)]
  | .rdh x => [.txn (.read x .half)]
  | .rdb x => [.txn (.read x .byte)]
  | .cmd m => [cmdOp m]
  | .wait => [.wait]
  | .run m => [cmdOp m, .wait]
  | .ack => [.txn (.write Csr.status.addr .word 2#32)]
  | .bytes x bs => wrbOps x bs
  | .bits k b => wrbOps (Window.bitw.addr + BitVec.ofNat 32 k) (b.map (fun f => (BitVec.ofBool f).setWidth 8))
  | .halt => [.halt]

/-- A host program as the operations the host is going to do. -/
def assemble (p : List HostLine) : List HostOp := p.flatMap HostLine.expand

/-- A host program given to the host from outside the machine, which begins a run of it (log entry 10). -/
def State.withHostProgram (s : State) (p : List HostLine) : State := { s with hostOps := assemble p, halted := false }

/-- A run of a host program has ended: the host has executed `halt` and STATUS.BUSY = 0 (R263). -/
def State.ended (s : State) : Bool := s.halted && !s.busy

end Sys2Proof.Machine
end

