-- ==== Sys2Proof/Machine/Step.lean ====
section
/-! DEFINITION. One step of the machine: the agent whose turn it is moves (00_scope R2, 20_memory R66, 60_exceptions R207). -/

namespace Sys2Proof.Machine

/-- The engine's step: the completion of the command in flight (R210). With none it has no step, and nothing
changes (log entry 2). -/
def engineStep (s : State) : Host.Outcome State Fault Refusal :=
  match s.inFlight with
  | none => .next s
  | some c =>
    match decode c.word with
    | .ok i => exec i s
    | .error _ => illegalCompletion s

/-- One step. -/
def step (s : State) : Host.Outcome State Fault Refusal :=
  match s.nextTurn with
  | .engine => engineStep s.popTurn
  | .host => .next s.popTurn.hostStep
  | .reset => .next s.popTurn.resetStep

/-- The state in which the next step completes the command of a table row: its word accepted as a CMD write accepts
it (R209), and the engine's turn next. The block fetches nothing from memory (R68), so nothing else is set (log entry 10). -/
def State.withFetchWord (s : State) (nbits w : Nat) : State :=
  { s.accept (tableWord nbits w) with turns := .engine :: s.turns }

end Sys2Proof.Machine
end

