-- ==== Sys2Proof/Safety.lean ====
section
/-! DEFINITION. What a good state is, and the terms the statements use for what a step leaves unchanged. -/

namespace Sys2Proof.Machine

/-- What holds of every state a run reaches: the parameters within their bounds (R7), each memory in canonical form
with no cell beyond its limit (R70), DONE and a non-zero ERRCODE never together with BUSY (R26, R209). -/
structure State.Inv (s : State) : Prop where
  params : paramsWf s.pixMax s.payMax = true
  pixWf : s.pix.wf
  payWf : s.pay.wf
  bitWf : s.bit.wf
  pixWithin : s.pix.within s.pixMax
  payWithin : s.pay.within s.payMax
  bitWithin : s.bit.within s.bitMax
  notBusyDone : s.busy = true → s.done = false ∧ s.errcode = .ok

/-- `t` is `s` with every part the same that no command's completion writes: parameters, CTRL, PIXCNT, the reset
draws and the environment (R85, R210). -/
structure State.KeepsFixed (s t : State) : Prop where
  pixMax : t.pixMax = s.pixMax
  payMax : t.payMax = s.payMax
  irqen : t.irqen = s.irqen
  fill : t.fill = s.fill
  pixcnt : t.pixcnt = s.pixcnt
  epoch : t.epoch = s.epoch
  hostOps : t.hostOps = s.hostOps
  halted : t.halted = s.halted
  turns : t.turns = s.turns
  answers : t.answers = s.answers

/-- A successful completion as STATUS shows it: BUSY 0, DONE 1, ERRCODE OK (R210). -/
structure State.DoneOk (t : State) : Prop where
  inFlight : t.inFlight = none
  done : t.done = true
  errcode : t.errcode = .ok

/-- The completion in which `s` ends with code `c` and nothing changes but STATUS; with STATUS, CUR_CMD and CUR_FILL
are discarded (R203, R210, R211). -/
def State.onlyStatus (s : State) (c : ErrCode) : State := { s with inFlight := none, done := true, errcode := c }

/-- `v` is the header value of 32 bits read through `cell`: header bit `8j + k` is bit `8j + 7 - k` of `v` (R120, R121). -/
def HeaderAt (cell : Nat → Bit) (v : Word) : Prop :=
  ∀ j k, j < 4 → k < 8 → v.getLsbD (8 * j + 7 - k) = cell (8 * j + k)

/-- The codes besides OK that a command can produce: the table of R202, row by row. -/
def raisable : Instr → List ErrCode
  | .bytesToBits => [.lengthRange]
  | .bitsToBytes => [.malformedLength, .lengthRange]
  | .encodeHeader => []
  | .decodeHeader => [.headerCorrupt, .lengthRange]
  | .frame => [.capacityExceeded, .lengthRange]
  | .unframe => [.truncatedPayload, .headerCorrupt, .lengthRange]
  | .check => [.capacityExceeded, .lengthRange]
  | .embed => [.lengthMismatch, .lengthRange]
  | .extract => [.lengthRange]
  | .encode => [.capacityExceeded, .lengthRange]
  | .decode => [.malformedLength, .truncatedPayload, .headerCorrupt, .lengthRange]

/-- The state after accepting a command and completing it, with no step of another agent between. -/
def runCommand (i : Instr) (s : State) : Host.Outcome State Fault Refusal := exec i (s.accept (encode i))

/-- Accepting and completing one command after another, as long as each succeeds (R182). -/
def runCommands : List Instr → State → Option State
  | [], s => some s
  | i :: is, s =>
    match runCommand i s with
    | .next t => if t.errcode = .ok then runCommands is t else none
    | .fault _ => none
    | .refused _ => none

end Sys2Proof.Machine
end

