-- ==== Sys2Proof/Certificates/Slice0/Obligations.lean ====
section
/-! DEFINITION. The statements for the provers, in the order of OBLIGATIONS.json. Where a docstring names a log
entry, the clause rests on the model's own choice recorded there. -/

open Sys2Proof Sys2Proof.Machine

/-! ## Reset -/

/-- 70_reset_and_hazards R240: a reset step sets every CSR to its reset value, drops the command in flight and lowers irq. -/
def Obligations.ResetStepSetsRegisters : Prop :=
  ∀ s : State, s.turns.head? = some .reset → ∃ t, step s = .next t ∧
    t.csrRead .ctrl = 0#32 ∧ t.csrRead .status = 0#32 ∧ t.csrRead .pixcnt = 0#32 ∧ t.csrRead .paylen = 0#32 ∧
    t.csrRead .bitlen = 0#32 ∧ t.csrRead .hdrval = 0#32 ∧ t.csrRead .id = 0x4C534250#32 ∧
    t.csrRead .version = 0x00010000#32 ∧ t.csrRead .pixmax = s.csrRead .pixmax ∧
    t.csrRead .paymax = s.csrRead .paymax ∧ t.inFlight = none ∧ t.irq = false

/-- R240, R244 of the power-on state, and that its parameters lie within the bounds of R7 (log entry 5). -/
def Obligations.PowerOnStateIsIdle : Prop :=
  State.reset.ctrlWord = 0#32 ∧ State.reset.statusWord = 0#32 ∧ State.reset.pixcnt = 0#32 ∧
    State.reset.paylen = 0#32 ∧ State.reset.bitlen = 0#32 ∧ State.reset.hdrval = 0#32 ∧
    State.reset.inFlight = none ∧ State.reset.irq = false ∧ 32 ≤ State.reset.pixMax ∧
    State.reset.pixMax ≤ 2 ^ 28 ∧ 1 ≤ State.reset.payMax ∧ State.reset.payMax ≤ 2 ^ 28

/-- R242, R243, R39 (a): after a reset step, whatever was written and whatever was in flight, every cell holds the
draw of that reset, and the filler draws are not started again (log entries 3, 4, 7). -/
def Obligations.ResetStepForgetsMemories : Prop :=
  ∀ s : State, s.turns.head? = some .reset → ∃ t, step s = .next t ∧ t.done = false ∧ t.busy = false ∧
    t.epoch = s.epoch + 1 ∧ t.fillCount = s.fillCount ∧
    ∀ i, t.pixCell i = Config.pixDraw (s.epoch + 1) i ∧ t.payCell i = Config.payDraw (s.epoch + 1) i ∧
      t.bitCell i = Config.bitDraw (s.epoch + 1) i

/-! ## Encoding -/

/-- 30_encoding R81: the word of each row, written out from its OP number. -/
def Obligations.OpcodeMapWords : Prop :=
  decode 0x00000001#32 = .ok .bytesToBits ∧ decode 0x00000002#32 = .ok .bitsToBytes ∧
    decode 0x00000003#32 = .ok .encodeHeader ∧ decode 0x00000004#32 = .ok .decodeHeader ∧
    decode 0x00000005#32 = .ok .frame ∧ decode 0x00000006#32 = .ok .unframe ∧ decode 0x00000007#32 = .ok .check ∧
    decode 0x00000008#32 = .ok .embed ∧ decode 0x00000009#32 = .ok .extract ∧
    decode 0x0000000A#32 = .ok .encode ∧ decode 0x0000000B#32 = .ok .decode

/-- R82, R83: decoding and encoding agree in both directions, so exactly eleven words are commands. -/
def Obligations.DecodeAgreesWithEncode : Prop :=
  ∀ (w : Word) (i : Instr), decode w = .ok i ↔ w = encode i

/-- R82: a word is ILLEGAL exactly when RSVD is not zero or OP is 0x00 or 0x0C..0xFF. -/
def Obligations.IllegalWordsAreTheOthers : Prop :=
  ∀ w : Word, (∃ e, decode w = .error e) ↔ (w.toNat / 256 ≠ 0 ∨ w.toNat % 256 = 0 ∨ 0x0C ≤ w.toNat % 256)

/-! ## Steps and the life cycle of a command -/

/-- R38, R210: when the engine moves, the step is `exec` of the decoded command in flight, the turn used up
(whose turn it is: log entry 1). -/
def Obligations.StepCompletesDecodedCommand : Prop :=
  ∀ (s : State) (c : InFlight) (i : Instr), s.inFlight = some c → (s.turns.head? = some .engine ∨ s.turns = []) →
    decode c.word = .ok i → step s = exec i { s with turns := s.turns.tail }

/-- R205: an ILLEGAL word is accepted like any other, and completes with ILLEGAL_COMMAND and no other effect (whose
turn it is, and the turn used up: log entry 1). -/
def Obligations.IllegalWordCompletes : Prop :=
  ∀ (s : State) (w : Word) (e : Illegal), decode w = .error e →
    (s.busy = false → s.transact (.write 0x00000018#32 .word w) =
      ({ s with inFlight := some { word := w, fill := s.fill }, done := false, errcode := .ok }, .ok)) ∧
    ∀ c : InFlight, s.inFlight = some c → c.word = w → (s.turns.head? = some .engine ∨ s.turns = []) →
      step s = .next { s with turns := s.turns.tail, inFlight := none, done := true, errcode := .illegalCommand }

/-- R209: a CMD write is answered OK exactly when BUSY = 0, and then the word is accepted. -/
def Obligations.CommandWriteIsAccepted : Prop :=
  ∀ (s : State) (w : Word),
    (s.busy = false → s.transact (.write 0x00000018#32 .word w) =
      ({ s with inFlight := some { word := w, fill := s.fill }, done := false, errcode := .ok }, .ok)) ∧
    (s.busy = true → s.transact (.write 0x00000018#32 .word w) = (s, .busErr))

/-- R210, R211: every completion clears BUSY and sets DONE, and either its code is OK or nothing but STATUS has changed. -/
def Obligations.CompletionIsAllOrNothing : Prop :=
  ∀ (i : Instr) (s : State), ∃ t, exec i s = .next t ∧ t.inFlight = none ∧ t.done = true ∧
    (t.errcode ≠ .ok → t = s.onlyStatus t.errcode)

/-- R202: the codes a command can produce besides OK are exactly those its row marks. -/
def Obligations.RaisedCodesAreTheTable : Prop :=
  ∀ (i : Instr) (c : ErrCode), c ≠ .ok →
    ((∃ s t : State, s.Inv ∧ exec i s = .next t ∧ t.errcode = c) ↔ c ∈ raisable i)

/-- R212: a failed command tried again from the state it left, its operands unchanged, fails with the same code. -/
def Obligations.RetryFailsAgain : Prop :=
  ∀ (i : Instr) (s t : State), exec i s = .next t → t.errcode ≠ .ok →
    ∃ u, runCommand i t = .next u ∧ u.errcode = t.errcode

/-- R28, R85: no command writes PIXCNT, CTRL or a parameter, and none touches the environment. -/
def Obligations.CommandsKeepFixedState : Prop :=
  ∀ (i : Instr) (s t : State), exec i s = .next t → s.KeepsFixed t

/-- R33: a command changes bit 0 of pixels only, and no pixel at or beyond PIXCNT. -/
def Obligations.CommandsChangeOnlyPixelLsbs : Prop :=
  ∀ (i : Instr) (s t : State), exec i s = .next t → ∀ j,
    (∀ k, 1 ≤ k → (t.pixCell j).getLsbD k = (s.pixCell j).getLsbD k) ∧
    (s.pixcnt.toNat ≤ j → t.pixCell j = s.pixCell j)

/-- R215, R209: BUSY rises only in a host step that writes CMD, and the word written is the command in flight. -/
def Obligations.BusyRisesOnlyByCommandWrite : Prop :=
  ∀ s t : State, step s = .next t → s.busy = false → t.busy = true →
    ∃ w : Word, s.hostOps.head? = some (.txn (.write 0x00000018#32 .word w)) ∧
      t.inFlight = some { word := w, fill := s.fill }

/-- R37: a host step, its turn listed or taken by default (log entry 1), that writes neither CMD nor STATUS leaves
BUSY, DONE and ERRCODE, and the command in flight. -/
def Obligations.OtherHostStepsKeepFlags : Prop :=
  ∀ s t : State, step s = .next t → (s.turns.head? = some .host ∨ (s.turns = [] ∧ s.busy = false)) →
    (∀ n v, s.hostOps.head? ≠ some (.txn (.write 0x00000018#32 n v))) →
    (∀ n v, s.hostOps.head? ≠ some (.txn (.write 0x00000014#32 n v))) →
    t.inFlight = s.inFlight ∧ t.done = s.done ∧ t.errcode = s.errcode

/-- R58, R200, R210, R211: no step stops the machine; an idle agent's step is the model's own (log entries 2, 15). -/
def Obligations.StepAlwaysAnswersNext : Prop :=
  ∀ s : State, ∃ t, step s = .next t

/-- R210: an accepted command completes, unless a reset step comes, after at most as many further steps as the
schedule of turns still lists, and one (log entry 1). -/
def Obligations.AcceptedCommandCompletes : Prop :=
  ∀ s : State, s.busy = true → (∀ x ∈ s.turns, x ≠ .reset) →
    ∃ n t, n ≤ s.turns.length + 1 ∧ Sys2Proof.core.run n s = .next t ∧ t.busy = false ∧ t.done = true

/-- R88, R89, R263: the line `cmd M` of an idle block's host program submits the word of M, and the completion that
follows is that of M (log entries 1, 10); only `halt` halts the host, a halted host does nothing more, and a run has
ended when the host has executed `halt` and BUSY = 0 (log entry 11). -/
def Obligations.HostLinesCmdAndHalt : Prop :=
  (∀ (m : Instr) (s : State), s.busy = false → s.turns = [] →
    Sys2Proof.core.run 2 (s.withHostProgram [.cmd m]) =
      exec m (((s.withHostProgram []).accept (encode m)).answered [] .ok)) ∧
    (∀ (p : List HostLine) (s : State), s.busy = false → s.turns = [] →
      ∃ t, step (s.withHostProgram (.halt :: p)) = .next t ∧ t.ended = true) ∧
    (∀ s t : State, step s = .next t →
      (t.halted = true ↔ s.halted = true ∨ (s.nextTurn = .host ∧ s.hostOps.head? = some .halt))) ∧
    (∀ s : State, s.halted = true → s.nextTurn = .host → step s = .next { s with turns := s.turns.tail }) ∧
    ∀ s : State, s.ended = true ↔ s.halted = true ∧ s.inFlight = none

/-! ## The bus -/

/-- 20_memory R58: a transaction answered BUSERR changes no state. -/
def Obligations.BusErrorChangesNothing : Prop :=
  ∀ (s : State) (x : BusTxn), (s.transact x).2 = .busErr → (s.transact x).1 = s

/-- R60: while BUSY = 1 the locked registers and all windows answer BUSERR, the others stay accessible. -/
def Obligations.LockoutWhileBusy : Prop :=
  ∀ s : State, s.busy = true →
    (∀ x : BusTxn, ((0x18 ≤ x.addr.toNat ∧ x.addr.toNat < 0x1C) ∨ (0x20 ≤ x.addr.toNat ∧ x.addr.toNat < 0x30) ∨
        (0x10000000 ≤ x.addr.toNat ∧ x.addr.toNat < 0x40000000)) → s.transact x = (s, .busErr)) ∧
    (∀ a : Addr, a ∈ [0x00#32, 0x04#32, 0x08#32, 0x0C#32, 0x10#32, 0x14#32] →
      ∃ v, s.transact (.read a .word) = (s, .okData v)) ∧
    (∀ (a : Addr) (v : Word), a ∈ [0x10#32, 0x14#32] → (s.transact (.write a .word v)).2 = .ok)

/-- R53, R32: every access to a reserved address answers BUSERR and changes nothing. -/
def Obligations.UnmappedAddressesAnswerBusErr : Prop :=
  ∀ (s : State) (x : BusTxn),
    ((0x1C ≤ x.addr.toNat ∧ x.addr.toNat < 0x20) ∨ (0x30 ≤ x.addr.toNat ∧ x.addr.toNat < 0x10000000) ∨
      0x40000000 ≤ x.addr.toNat ∨ (0x10000000 + s.pixMax ≤ x.addr.toNat ∧ x.addr.toNat < 0x20000000) ∨
      (0x20000000 + s.payMax ≤ x.addr.toNat ∧ x.addr.toNat < 0x30000000) ∨
      (0x30000000 + s.bitMax ≤ x.addr.toNat ∧ x.addr.toNat < 0x40000000)) → s.transact x = (s, .busErr)

/-- R61: CSR accesses are whole words at multiples of 4; a read returns the register, reserved fields as 0, and a
write takes all 32 bits. Of R27 to R31, the reads: CMD reads as 0, and PIXCNT,
PAYLEN, BITLEN and HDRVAL as their values. -/
def Obligations.CsrAccessesAreWholeWords : Prop :=
  ∀ s : State,
    (∀ x : BusTxn, x.addr.toNat < 0x1000 → (x.width ≠ .word ∨ x.addr.toNat % 4 ≠ 0) → s.transact x = (s, .busErr)) ∧
    ((s.csrRead .ctrl).extractLsb' 2 30 = 0#30 ∧ (s.csrRead .status).extractLsb' 2 2 = 0#2 ∧
      (s.csrRead .status).extractLsb' 8 24 = 0#24) ∧
    (s.busy = false →
      (∀ r : Csr, s.transact (.read r.addr .word) = (s, .okData (s.csrRead r))) ∧
      (s.transact (.read 0x18#32 .word) = (s, .okData 0#32) ∧
        s.transact (.read 0x20#32 .word) = (s, .okData s.pixcnt) ∧
        s.transact (.read 0x24#32 .word) = (s, .okData s.paylen) ∧
        s.transact (.read 0x28#32 .word) = (s, .okData s.bitlen) ∧
        s.transact (.read 0x2C#32 .word) = (s, .okData s.hdrval)) ∧
      (∀ v : Word, s.transact (.write 0x20#32 .word v) = ({ s with pixcnt := v }, .ok) ∧
        s.transact (.write 0x24#32 .word v) = ({ s with paylen := v }, .ok) ∧
        s.transact (.write 0x28#32 .word v) = ({ s with bitlen := v }, .ok) ∧
        s.transact (.write 0x2C#32 .word v) = ({ s with hdrval := v }, .ok)))

/-- R21, R22, R23: the read-only registers read as their constants, busy or not, and a write to one answers BUSERR. -/
def Obligations.ReadOnlyRegisters : Prop :=
  ∀ (s : State) (v : Word),
    s.transact (.read 0x00#32 .word) = (s, .okData 0x4C534250#32) ∧
    s.transact (.read 0x04#32 .word) = (s, .okData 0x00010000#32) ∧
    s.transact (.read 0x08#32 .word) = (s, .okData (BitVec.ofNat 32 s.pixMax)) ∧
    s.transact (.read 0x0C#32 .word) = (s, .okData (BitVec.ofNat 32 s.payMax)) ∧
    s.transact (.write 0x00#32 .word v) = (s, .busErr) ∧ s.transact (.write 0x04#32 .word v) = (s, .busErr) ∧
    s.transact (.write 0x08#32 .word v) = (s, .busErr) ∧ s.transact (.write 0x0C#32 .word v) = (s, .busErr)

/-- R24 (the register; the filler it selects is stated with FRAME and ENCODE): a write stores bits 0 and 1, busy or
not, changes nothing else, and reads back with bits 31:2 zero. -/
def Obligations.ControlRegisterWrite : Prop :=
  ∀ (s : State) (v : Word), ∃ t, s.transact (.write 0x10#32 .word v) = (t, .ok) ∧
    t = { s with irqen := v.getLsbD 0, fill := v.getLsbD 1 } ∧
    t.transact (.read 0x10#32 .word) = (t, .okData (v &&& 3#32))

/-- R26 (the register; that BUSY and DONE are never both 1 is stated as an invariant): a write clears DONE when its
bit 1 is 1 and does nothing else; the fields of a read, ERRCODE by the numbers of R200. -/
def Obligations.StatusRegisterReadAndClear : Prop :=
  ∀ (s : State) (v : Word),
    s.transact (.write 0x14#32 .word v) = ({ s with done := s.done && !v.getLsbD 1 }, .ok) ∧
    ∃ r : Word, s.transact (.read 0x14#32 .word) = (s, .okData r) ∧ r.getLsbD 0 = s.busy ∧ r.getLsbD 1 = s.done ∧
      r.extractLsb' 2 2 = 0#2 ∧ r.extractLsb' 8 24 = 0#24 ∧
      r.extractLsb' 4 4 = match s.errcode with
        | .ok => 0x0#4
        | .capacityExceeded => 0x1#4
        | .malformedLength => 0x2#4
        | .truncatedPayload => 0x3#4
        | .headerCorrupt => 0x4#4
        | .lengthMismatch => 0x5#4
        | .lengthRange => 0x6#4
        | .illegalCommand => 0x7#4

/-- R64: reads have no side effect; a write twice is the same as once, except to CMD, whose second write while busy
is refused; only CMD and STATUS writes do more than store. -/
def Obligations.AccessSideEffects : Prop :=
  ∀ (s : State) (a : Addr) (n : Width) (v : Word),
    (s.transact (.read a n)).1 = s ∧
    (a ≠ 0x18#32 → (s.transact (.write a n v)).1.transact (.write a n v) = s.transact (.write a n v)) ∧
    (a ≠ 0x18#32 → a ≠ 0x14#32 → (s.transact (.write a n v)).1.statusWord = s.statusWord ∧
      (s.transact (.write a n v)).1.inFlight = s.inFlight) ∧
    (s.busy = false → ∀ w : Word, (s.transact (.write 0x18#32 .word v)).1.transact (.write 0x18#32 .word w) =
      ((s.transact (.write 0x18#32 .word v)).1, .busErr))

/-- R56: a legal window read returns the little-endian value of its cells and changes nothing. -/
def Obligations.WindowReadIsLittleEndian : Prop :=
  ∀ (s : State) (w : Window) (a : Addr) (i : Nat) (n : Width), paramsWf s.pixMax s.payMax = true →
    s.busy = false → a.toNat = w.base + i → a.toNat % n.bytes = 0 → i + n.bytes ≤ s.windowSize w →
    s.transact (.read a n) = (s, .okData (BitVec.ofNat 32 (∑ k ∈ Finset.range n.bytes,
      (match w with
        | .pixw => (s.pixCell (i + k)).toNat
        | .payw => (s.payCell (i + k)).toNat
        | .bitw => (s.bitCell (i + k)).toNat) * 2 ^ (8 * k))))

/-- R57: a legal window write stores byte `k` of its data in cell `i + k`, in BITW its bit 0, and changes nothing else. -/
def Obligations.WindowWriteStoresBytes : Prop :=
  ∀ (s : State) (w : Window) (a : Addr) (i : Nat) (n : Width) (v : Word), paramsWf s.pixMax s.payMax = true →
    s.busy = false → a.toNat = w.base + i → a.toNat % n.bytes = 0 → i + n.bytes ≤ s.windowSize w →
    ∃ t, s.transact (.write a n v) = (t, .ok) ∧
      match w with
      | .pixw => t = { s with pix := t.pix } ∧ ∀ j, t.pixCell j =
          if i ≤ j ∧ j < i + n.bytes then v.extractLsb' (8 * (j - i)) 8 else s.pixCell j
      | .payw => t = { s with pay := t.pay } ∧ ∀ j, t.payCell j =
          if i ≤ j ∧ j < i + n.bytes then v.extractLsb' (8 * (j - i)) 8 else s.payCell j
      | .bitw => t = { s with bit := t.bit } ∧ ∀ j, t.bitCell j =
          if i ≤ j ∧ j < i + n.bytes then v.getLsbD (8 * (j - i)) else s.bitCell j

/-- R59: a misaligned window access, or one whose last byte is not mapped, answers BUSERR as a whole. -/
def Obligations.WindowShapeErrors : Prop :=
  ∀ (s : State) (w : Window) (x : BusTxn) (i : Nat), x.addr.toNat = w.base + i → i < 2 ^ 28 →
    (x.addr.toNat % x.width.bytes ≠ 0 ∨ s.windowSize w < i + x.width.bytes) → s.transact x = (s, .busErr)

/-- R62: cell `k` of BIT is seen at byte address `0x3000_0000 + k` as 0x00 or 0x01, four at a time in a word, and a
one-byte write stores bit 0 of its byte. -/
def Obligations.BitWindowLayout : Prop :=
  ∀ (s : State) (k : Nat), paramsWf s.pixMax s.payMax = true → s.busy = false →
    (k < s.bitMax →
      s.transact (.read (BitVec.ofNat 32 (0x30000000 + k)) .byte) =
        (s, .okData (if s.bitCell k then 1#32 else 0#32)) ∧
      ∀ v : Word, ((s.transact (.write (BitVec.ofNat 32 (0x30000000 + k)) .byte v)).1.bitCell k = v.getLsbD 0)) ∧
    (4 * k + 4 ≤ s.bitMax → s.transact (.read (BitVec.ofNat 32 (0x30000000 + 4 * k)) .word) =
      (s, .okData (BitVec.ofNat 32 ((s.bitCell (4 * k)).toNat + (s.bitCell (4 * k + 1)).toNat * 2 ^ 8 +
        (s.bitCell (4 * k + 2)).toNat * 2 ^ 16 + (s.bitCell (4 * k + 3)).toNat * 2 ^ 24))))

/-- R63, its last sentence: a 4-byte write to PIXW or PAYW followed by 1-byte reads of its four addresses returns its
bytes from least to most significant. -/
def Obligations.WordWriteReadsBackByBytes : Prop :=
  ∀ (s : State) (w : Window) (a : Addr) (i k : Nat) (v : Word), paramsWf s.pixMax s.payMax = true →
    s.busy = false → w ≠ .bitw → a.toNat = w.base + i → i % 4 = 0 → i + 4 ≤ s.windowSize w → k < 4 →
    ((s.transact (.write a .word v)).1.transact (.read (a + BitVec.ofNat 32 k) .byte)).2 =
      .okData ((v >>> (8 * k)) &&& 0xFF#32)

/-- R213, R214: irq is DONE and IRQEN, every completion raises it when enabled, and clearing DONE, a new command,
masking and a reset each lower it; clearing DONE and masking keep ERRCODE. -/
def Obligations.InterruptRisesAndFalls : Prop :=
  ∀ s : State, s.irq = (s.done && s.irqen) ∧
    (∀ (i : Instr) (t : State), exec i s = .next t → t.irq = s.irqen) ∧
    (∀ v : Word, v.getLsbD 1 = true → (s.transact (.write 0x14#32 .word v)).1.irq = false ∧
      (s.transact (.write 0x14#32 .word v)).1.errcode = s.errcode) ∧
    (∀ w : Word, s.busy = false → (s.transact (.write 0x18#32 .word w)).1.irq = false) ∧
    (∀ v : Word, v.getLsbD 0 = false → (s.transact (.write 0x10#32 .word v)).1.irq = false ∧
      (s.transact (.write 0x10#32 .word v)).1.done = s.done ∧
      (s.transact (.write 0x10#32 .word v)).1.errcode = s.errcode) ∧
    s.resetStep.irq = false

/-- 70_reset_and_hazards R251: a CTRL write acts on irq at once, and while busy it leaves the running command's filler
policy; after that command's completion, by its commit or by any error, irq is the written IRQEN and the next command
accepted samples the written FILL. -/
def Obligations.ControlWriteWhileBusy : Prop :=
  ∀ (s : State) (v : Word), ∃ t, s.transact (.write 0x10#32 .word v) = (t, .ok) ∧ t.irq = (s.done && v.getLsbD 0) ∧
    (s.busy = true → t.inFlight = s.inFlight ∧ t.curFill = s.curFill ∧
      ∀ u : State, (illegalCompletion t = .next u ∨ ∃ i, exec i t = .next u) → u.irq = v.getLsbD 0 ∧
        ∀ w : Word, (u.transact (.write 0x18#32 .word w)).2 = .ok ∧
          (u.transact (.write 0x18#32 .word w)).1.curFill = v.getLsbD 1)

/-! ## The pure functions -/

/-- 41_bitconverter R100. -/
def Obligations.BytesToBitsElements : Prop :=
  ∀ s : List Byte, (bytesToBits s).length = 8 * s.length ∧
    ∀ j k, (h : j < s.length) → k < 8 → (bytesToBits s)[8 * j + k]? = some (s[j].toNat.testBit (7 - k))

/-- R101. -/
def Obligations.BitsToBytesValues : Prop :=
  ∀ b : List Bit, (b.length % 8 ≠ 0 → bitsToBytes b = .error .malformedLength) ∧
    (b.length % 8 = 0 → ∃ y, bitsToBytes b = .ok y ∧ y.length = b.length / 8 ∧
      ∀ j, j < b.length / 8 → y[j]? = some (BitVec.ofNat 8 (∑ k ∈ Finset.range 8,
        (b.getD (8 * j + k) false).toNat * 2 ^ (7 - k))))

/-- R104, its machine sentence included: BYTES_TO_BITS followed by BITS_TO_BYTES, both succeeding, leaves the payload
(the parameters within the bounds of R7, which every step keeps: `State.Inv.params`). -/
def Obligations.BitsAndBytesAreInverse : Prop :=
  (∀ s : List Byte, bitsToBytes (bytesToBits s) = .ok s) ∧
    (∀ b : List Bit, b.length % 8 = 0 → ∃ y, bitsToBytes b = .ok y ∧ bytesToBits y = b) ∧
    (∀ b : List Bit, b.length % 8 ≠ 0 → bitsToBytes b = .error .malformedLength) ∧
    ∀ s t : State, paramsWf s.pixMax s.payMax = true → runCommands [.bytesToBits, .bitsToBytes] s = some t →
      t.paylen = s.paylen ∧ ∀ j, j < s.paylen.toNat → t.payCell j = s.payCell j

/-- 42_framer R120. -/
def Obligations.HeaderBitsOfValue : Prop :=
  ∀ n : Word, (encodeHeader n).length = 32 ∧
    ∀ j k, j < 4 → k < 8 → (encodeHeader n)[8 * j + k]? = some (n.getLsbD (8 * j + 7 - k))

/-- R121. -/
def Obligations.HeaderValueOfBits : Prop :=
  ∀ b : List Bit, (b.length < 32 → decodeHeader b = .error .headerCorrupt) ∧
    (32 ≤ b.length → decodeHeader b = .ok (BitVec.ofNat 32 (∑ i ∈ Finset.range 32,
      (b.getD i false).toNat * 2 ^ (8 * (i / 8) + 7 - i % 8))))

/-- R128, its machine sentence included: ENCODE_HEADER then DECODE_HEADER leaves HDRVAL. -/
def Obligations.HeaderFidelity : Prop :=
  (∀ n : Word, decodeHeader (encodeHeader n) = .ok n) ∧
    (∀ b : List Bit, 32 ≤ b.length → ∃ n, decodeHeader b = .ok n ∧ encodeHeader n = b.take 32) ∧
    ∀ s : State, paramsWf s.pixMax s.payMax = true →
      ∃ t, runCommands [.encodeHeader, .decodeHeader] s = some t ∧ t.hdrval = s.hdrval

/-- R129, for payloads whose length R120 can carry (an unsigned 32-bit value), its machine sentence included: FRAME
followed by UNFRAME, both succeeding, restores the bit sequence, whatever the filler. -/
def Obligations.FrameInverse : Prop :=
  (∀ (p z : List Bit) (c : Nat), p.length < 2 ^ 32 → p.length + 32 ≤ c → z.length = c - 32 - p.length →
    ∃ f, frame p c z = .ok f ∧ f.length = c ∧ unframe f = .ok (p.length, p)) ∧
    ∀ s t : State, runCommands [.frame, .unframe] s = some t →
      t.bitlen = s.bitlen ∧ t.hdrval = s.bitlen ∧ ∀ i, i < s.bitlen.toNat → t.bitCell i = s.bitCell i

/-- 43_guard R150, R152. -/
def Obligations.CapacityGuardBoundary : Prop :=
  (∀ b n : Nat, (b + 32 ≥ n → check b n = .error .capacityExceeded) ∧ (b + 32 < n → check b n = .ok ())) ∧
    ∀ n : Nat, 33 ≤ n → (∀ b, check b n = .ok () ↔ b ≤ n - 33) ∧
      (∀ p, check (8 * p) n = .ok () ↔ p ≤ (n - 33) / 8)

/-- 44_lsbcodec R165. -/
def Obligations.EmbedChangesOnlyLsbs : Prop :=
  ∀ (x : List Byte) (f : List Bit), x.length = f.length →
    (embed x f).length = x.length ∧ extract (embed x f) = f ∧ embed x (extract x) = x ∧
    ∀ i, (h : i < x.length) → (h' : i < (embed x f).length) →
      (embed x f)[i] >>> 1 = x[i] >>> 1 ∧ (embed x f)[i].toNat ≤ x[i].toNat + 1 ∧
      x[i].toNat ≤ (embed x f)[i].toNat + 1

/-! ## The commands: when each fails and with what code, what it writes, what it leaves -/

/-- 41_bitconverter R102. -/
def Obligations.BytesToBitsCommand : Prop :=
  decode 0x00000001#32 = .ok .bytesToBits ∧ ∀ s : State,
    (s.payMax < s.paylen.toNat → exec .bytesToBits s = .next (s.onlyStatus .lengthRange)) ∧
    (s.bitMax < 8 * s.paylen.toNat → exec .bytesToBits s = .next (s.onlyStatus .lengthRange)) ∧
    (s.paylen.toNat ≤ s.payMax → 8 * s.paylen.toNat ≤ s.bitMax → paramsWf s.pixMax s.payMax = true →
      ∃ t, exec .bytesToBits s = .next t ∧ s.KeepsFixed t ∧ t.DoneOk ∧ t.bitlen.toNat = 8 * s.paylen.toNat ∧
        (∀ j k, j < s.paylen.toNat → k < 8 → t.bitCell (8 * j + k) = (s.payCell j).getLsbD (7 - k)) ∧
        (∀ i, 8 * s.paylen.toNat ≤ i → t.bitCell i = s.bitCell i) ∧
        t.pix = s.pix ∧ t.pay = s.pay ∧ t.paylen = s.paylen ∧ t.hdrval = s.hdrval ∧ t.fillCount = s.fillCount)

/-- R103. -/
def Obligations.BitsToBytesCommand : Prop :=
  decode 0x00000002#32 = .ok .bitsToBytes ∧ ∀ s : State,
    (s.bitMax < s.bitlen.toNat → exec .bitsToBytes s = .next (s.onlyStatus .lengthRange)) ∧
    (s.bitlen.toNat ≤ s.bitMax → s.bitlen.toNat % 8 ≠ 0 →
      exec .bitsToBytes s = .next (s.onlyStatus .malformedLength)) ∧
    (s.bitlen.toNat ≤ s.bitMax → s.bitlen.toNat % 8 = 0 → s.payMax < s.bitlen.toNat / 8 →
      exec .bitsToBytes s = .next (s.onlyStatus .lengthRange)) ∧
    (s.bitlen.toNat ≤ s.bitMax → s.bitlen.toNat % 8 = 0 → s.bitlen.toNat / 8 ≤ s.payMax →
      ∃ t, exec .bitsToBytes s = .next t ∧ s.KeepsFixed t ∧ t.DoneOk ∧ t.paylen.toNat = s.bitlen.toNat / 8 ∧
        (∀ j k, j < s.bitlen.toNat / 8 → k < 8 → (t.payCell j).getLsbD (7 - k) = s.bitCell (8 * j + k)) ∧
        (∀ j, s.bitlen.toNat / 8 ≤ j → t.payCell j = s.payCell j) ∧
        t.pix = s.pix ∧ t.bit = s.bit ∧ t.bitlen = s.bitlen ∧ t.hdrval = s.hdrval ∧ t.fillCount = s.fillCount)

/-- 42_framer R124. -/
def Obligations.EncodeHeaderCommand : Prop :=
  decode 0x00000003#32 = .ok .encodeHeader ∧ ∀ s : State,
    ∃ t, exec .encodeHeader s = .next t ∧ s.KeepsFixed t ∧ t.DoneOk ∧ t.bitlen = 32#32 ∧
      HeaderAt t.bitCell s.hdrval ∧ (∀ i, 32 ≤ i → t.bitCell i = s.bitCell i) ∧
      t.pix = s.pix ∧ t.pay = s.pay ∧ t.paylen = s.paylen ∧ t.hdrval = s.hdrval ∧ t.fillCount = s.fillCount

/-- R125. -/
def Obligations.DecodeHeaderCommand : Prop :=
  decode 0x00000004#32 = .ok .decodeHeader ∧ ∀ s : State,
    (s.bitMax < s.bitlen.toNat → exec .decodeHeader s = .next (s.onlyStatus .lengthRange)) ∧
    (s.bitlen.toNat ≤ s.bitMax → s.bitlen.toNat < 32 → exec .decodeHeader s = .next (s.onlyStatus .headerCorrupt)) ∧
    (s.bitlen.toNat ≤ s.bitMax → 32 ≤ s.bitlen.toNat →
      ∃ t, exec .decodeHeader s = .next t ∧ s.KeepsFixed t ∧ t.DoneOk ∧ HeaderAt s.bitCell t.hdrval ∧
        t.pix = s.pix ∧ t.pay = s.pay ∧ t.bit = s.bit ∧ t.paylen = s.paylen ∧ t.bitlen = s.bitlen ∧
        t.fillCount = s.fillCount)

/-- R126. With CUR_FILL = 1 the filler bits are a draw, of which nothing is said here. -/
def Obligations.FrameCommand : Prop :=
  decode 0x00000005#32 = .ok .frame ∧ ∀ s : State,
    (s.bitMax < s.bitlen.toNat → exec .frame s = .next (s.onlyStatus .lengthRange)) ∧
    (s.pixMax < s.pixcnt.toNat → exec .frame s = .next (s.onlyStatus .lengthRange)) ∧
    (s.bitlen.toNat ≤ s.bitMax → s.pixcnt.toNat ≤ s.pixMax → s.pixcnt.toNat < s.bitlen.toNat + 32 →
      exec .frame s = .next (s.onlyStatus .capacityExceeded)) ∧
    (s.bitlen.toNat ≤ s.bitMax → s.pixcnt.toNat ≤ s.pixMax → s.bitlen.toNat + 32 ≤ s.pixcnt.toNat →
      ∃ t, exec .frame s = .next t ∧ s.KeepsFixed t ∧ t.DoneOk ∧ t.bitlen = s.pixcnt ∧ t.hdrval = s.bitlen ∧
        HeaderAt t.bitCell s.bitlen ∧ (∀ i, i < s.bitlen.toNat → t.bitCell (32 + i) = s.bitCell i) ∧
        (s.curFill = false → ∀ i, s.bitlen.toNat + 32 ≤ i → i < s.pixcnt.toNat → t.bitCell i = false) ∧
        (∀ i, s.pixcnt.toNat ≤ i → t.bitCell i = s.bitCell i) ∧
        t.pix = s.pix ∧ t.pay = s.pay ∧ t.paylen = s.paylen ∧ (s.curFill = false → t.fillCount = s.fillCount))

/-- R127. -/
def Obligations.UnframeCommand : Prop :=
  decode 0x00000006#32 = .ok .unframe ∧ ∀ (s : State) (v : Word), HeaderAt s.bitCell v →
    (s.bitMax < s.bitlen.toNat → exec .unframe s = .next (s.onlyStatus .lengthRange)) ∧
    (s.bitlen.toNat ≤ s.bitMax → s.bitlen.toNat < 32 → exec .unframe s = .next (s.onlyStatus .headerCorrupt)) ∧
    (s.bitlen.toNat ≤ s.bitMax → 32 ≤ s.bitlen.toNat → s.bitlen.toNat < v.toNat + 32 →
      exec .unframe s = .next (s.onlyStatus .truncatedPayload)) ∧
    (s.bitlen.toNat ≤ s.bitMax → v.toNat + 32 ≤ s.bitlen.toNat →
      ∃ t, exec .unframe s = .next t ∧ s.KeepsFixed t ∧ t.DoneOk ∧ t.bitlen = v ∧ t.hdrval = v ∧
        (∀ i, i < v.toNat → t.bitCell i = s.bitCell (32 + i)) ∧ (∀ i, v.toNat ≤ i → t.bitCell i = s.bitCell i) ∧
        t.pix = s.pix ∧ t.pay = s.pay ∧ t.paylen = s.paylen ∧ t.fillCount = s.fillCount)

/-- 43_guard R151: success and failure alike change nothing but STATUS. -/
def Obligations.CheckCommand : Prop :=
  decode 0x00000007#32 = .ok .check ∧ ∀ s : State,
    (s.bitMax < s.bitlen.toNat → exec .check s = .next (s.onlyStatus .lengthRange)) ∧
    (s.pixMax < s.pixcnt.toNat → exec .check s = .next (s.onlyStatus .lengthRange)) ∧
    (s.bitlen.toNat ≤ s.bitMax → s.pixcnt.toNat ≤ s.pixMax → s.pixcnt.toNat ≤ s.bitlen.toNat + 32 →
      exec .check s = .next (s.onlyStatus .capacityExceeded)) ∧
    (s.bitlen.toNat ≤ s.bitMax → s.pixcnt.toNat ≤ s.pixMax → s.bitlen.toNat + 32 < s.pixcnt.toNat →
      exec .check s = .next (s.onlyStatus .ok))

/-- 44_lsbcodec R162. -/
def Obligations.EmbedCommand : Prop :=
  decode 0x00000008#32 = .ok .embed ∧ ∀ s : State,
    (s.bitMax < s.bitlen.toNat → exec .embed s = .next (s.onlyStatus .lengthRange)) ∧
    (s.pixMax < s.pixcnt.toNat → exec .embed s = .next (s.onlyStatus .lengthRange)) ∧
    (s.bitlen.toNat ≤ s.bitMax → s.pixcnt.toNat ≤ s.pixMax → s.bitlen ≠ s.pixcnt →
      exec .embed s = .next (s.onlyStatus .lengthMismatch)) ∧
    (s.pixcnt.toNat ≤ s.pixMax → s.bitlen = s.pixcnt →
      ∃ t, exec .embed s = .next t ∧ s.KeepsFixed t ∧ t.DoneOk ∧
        (∀ i, i < s.pixcnt.toNat → (t.pixCell i).getLsbD 0 = s.bitCell i ∧
          ∀ k, 1 ≤ k → (t.pixCell i).getLsbD k = (s.pixCell i).getLsbD k) ∧
        (∀ i, s.pixcnt.toNat ≤ i → t.pixCell i = s.pixCell i) ∧
        t.pay = s.pay ∧ t.bit = s.bit ∧ t.paylen = s.paylen ∧ t.bitlen = s.bitlen ∧ t.hdrval = s.hdrval ∧
        t.fillCount = s.fillCount)

/-- R163. -/
def Obligations.ExtractCommand : Prop :=
  decode 0x00000009#32 = .ok .extract ∧ ∀ s : State,
    (s.pixMax < s.pixcnt.toNat → exec .extract s = .next (s.onlyStatus .lengthRange)) ∧
    (s.pixcnt.toNat ≤ s.pixMax →
      ∃ t, exec .extract s = .next t ∧ s.KeepsFixed t ∧ t.DoneOk ∧ t.bitlen = s.pixcnt ∧
        (∀ i, i < s.pixcnt.toNat → t.bitCell i = (s.pixCell i).getLsbD 0) ∧
        (∀ i, s.pixcnt.toNat ≤ i → t.bitCell i = s.bitCell i) ∧
        t.pix = s.pix ∧ t.pay = s.pay ∧ t.paylen = s.paylen ∧ t.hdrval = s.hdrval ∧ t.fillCount = s.fillCount)

/-- 45_pipeline R180. With CUR_FILL = 1 the filler bits are a draw, of which nothing is said here. -/
def Obligations.EncodeCommand : Prop :=
  decode 0x0000000A#32 = .ok .encode ∧ ∀ s : State,
    (s.payMax < s.paylen.toNat → exec .encode s = .next (s.onlyStatus .lengthRange)) ∧
    (s.pixMax < s.pixcnt.toNat → exec .encode s = .next (s.onlyStatus .lengthRange)) ∧
    (s.paylen.toNat ≤ s.payMax → s.pixcnt.toNat ≤ s.pixMax → s.pixcnt.toNat ≤ 8 * s.paylen.toNat + 32 →
      exec .encode s = .next (s.onlyStatus .capacityExceeded)) ∧
    (s.paylen.toNat ≤ s.payMax → s.pixcnt.toNat ≤ s.pixMax → 8 * s.paylen.toNat + 32 < s.pixcnt.toNat →
      ∃ t, exec .encode s = .next t ∧ s.KeepsFixed t ∧ t.DoneOk ∧ t.bitlen = s.pixcnt ∧
        t.hdrval.toNat = 8 * s.paylen.toNat ∧ HeaderAt t.bitCell t.hdrval ∧
        (∀ j k, j < s.paylen.toNat → k < 8 → t.bitCell (32 + (8 * j + k)) = (s.payCell j).getLsbD (7 - k)) ∧
        (s.curFill = false → ∀ i, 8 * s.paylen.toNat + 32 ≤ i → i < s.pixcnt.toNat → t.bitCell i = false) ∧
        (∀ i, i < s.pixcnt.toNat → (t.pixCell i).getLsbD 0 = t.bitCell i ∧
          ∀ k, 1 ≤ k → (t.pixCell i).getLsbD k = (s.pixCell i).getLsbD k) ∧
        (∀ i, s.pixcnt.toNat ≤ i → t.pixCell i = s.pixCell i ∧ t.bitCell i = s.bitCell i) ∧
        t.pay = s.pay ∧ t.paylen = s.paylen ∧ (s.curFill = false → t.fillCount = s.fillCount))

/-- R181. -/
def Obligations.DecodeCommand : Prop :=
  decode 0x0000000B#32 = .ok .decode ∧ ∀ (s : State) (v : Word), HeaderAt (fun i => (s.pixCell i).getLsbD 0) v →
    (s.pixMax < s.pixcnt.toNat → exec .decode s = .next (s.onlyStatus .lengthRange)) ∧
    (s.pixcnt.toNat ≤ s.pixMax → s.pixcnt.toNat < 32 → exec .decode s = .next (s.onlyStatus .headerCorrupt)) ∧
    (s.pixcnt.toNat ≤ s.pixMax → 32 ≤ s.pixcnt.toNat → s.pixcnt.toNat < v.toNat + 32 →
      exec .decode s = .next (s.onlyStatus .truncatedPayload)) ∧
    (s.pixcnt.toNat ≤ s.pixMax → v.toNat + 32 ≤ s.pixcnt.toNat → v.toNat % 8 ≠ 0 →
      exec .decode s = .next (s.onlyStatus .malformedLength)) ∧
    (s.pixcnt.toNat ≤ s.pixMax → v.toNat + 32 ≤ s.pixcnt.toNat → v.toNat % 8 = 0 → s.payMax < v.toNat / 8 →
      exec .decode s = .next (s.onlyStatus .lengthRange)) ∧
    (s.pixcnt.toNat ≤ s.pixMax → v.toNat + 32 ≤ s.pixcnt.toNat → v.toNat % 8 = 0 → v.toNat / 8 ≤ s.payMax →
      ∃ t, exec .decode s = .next t ∧ s.KeepsFixed t ∧ t.DoneOk ∧ t.bitlen = v ∧ t.hdrval = v ∧
        t.paylen.toNat = v.toNat / 8 ∧
        (∀ i, i < v.toNat → t.bitCell i = (s.pixCell (32 + i)).getLsbD 0) ∧
        (∀ i, v.toNat ≤ i → i < s.pixcnt.toNat → t.bitCell i = (s.pixCell i).getLsbD 0) ∧
        (∀ i, s.pixcnt.toNat ≤ i → t.bitCell i = s.bitCell i) ∧
        (∀ j k, j < v.toNat / 8 → k < 8 →
          (t.payCell j).getLsbD (7 - k) = (s.pixCell (32 + (8 * j + k))).getLsbD 0) ∧
        (∀ j, v.toNat / 8 ≤ j → t.payCell j = s.payCell j) ∧
        t.pix = s.pix ∧ t.fillCount = s.fillCount)

/-- R24, R39 (b): with CUR_FILL = 1 the filler bits of FRAME and ENCODE are one filler sequence, and the next draw is
a new one (how a draw is numbered: log entry 4). It holds whatever the sequence is. -/
def Obligations.ExternalFillerIsDrawn : Prop :=
  ∀ s t : State, s.curFill = true → t.errcode = .ok →
    (exec .frame s = .next t → t.fillCount = s.fillCount + 1 ∧
      ∀ i, s.bitlen.toNat + 32 + i < s.pixcnt.toNat →
        t.bitCell (s.bitlen.toNat + 32 + i) = Config.fillBit s.fillCount i) ∧
    (exec .encode s = .next t → t.fillCount = s.fillCount + 1 ∧
      ∀ i, 8 * s.paylen.toNat + 32 + i < s.pixcnt.toNat →
        t.bitCell (8 * s.paylen.toNat + 32 + i) = Config.fillBit s.fillCount i)

/-! ## Whole-machine results -/

/-- The power-on state satisfies the invariant (its parameters: log entry 5). -/
def Obligations.PowerOnStateInvariant : Prop := State.reset.Inv

/-- R7, R26, R70, R209: every step of every agent keeps the invariant. -/
def Obligations.StepKeepsInvariant : Prop :=
  ∀ s t : State, s.Inv → step s = .next t → t.Inv

/-- 45_pipeline R182: when ENCODE succeeds, its end state is that of BYTES_TO_BITS, CHECK, FRAME, EMBED, with the same
filler draw (how a draw is numbered: log entry 4). -/
def Obligations.EncodeEqualsItsSequence : Prop :=
  ∀ s t : State, runCommands [.encode] s = some t →
    runCommands [.bytesToBits, .check, .frame, .embed] s = some t

/-- R182: when DECODE succeeds, its end state is that of EXTRACT, UNFRAME, BITS_TO_BYTES. -/
def Obligations.DecodeEqualsItsSequence : Prop :=
  ∀ s t : State, runCommands [.decode] s = some t → runCommands [.extract, .unframe, .bitsToBytes] s = some t

/-- R183: what ENCODE concealed, DECODE recovers from any state that holds the same carrier, whatever the filler policy was. -/
def Obligations.EncodeDecodeRoundTrip : Prop :=
  ∀ s t u : State, exec .encode s = .next t → t.errcode = .ok → u.pixMax = t.pixMax → u.payMax = t.payMax →
    u.pixcnt = t.pixcnt → (∀ i, i < t.pixcnt.toNat → u.pixCell i = t.pixCell i) →
    ∃ v, exec .decode u = .next v ∧ v.errcode = .ok ∧ v.paylen = s.paylen ∧
      ∀ j, j < s.paylen.toNat → v.payCell j = s.payCell j
end

