-- ==== Sys2Proof/Laws/Codec.lean ====
section
/-! SUPPORT. The laws of the pure codec functions: lengths, elements and inverses. -/

namespace Sys2Proof.Machine

@[simp] theorem byteBits_length (b : Byte) : (byteBits b).length = 8 := by simp [byteBits]

theorem byteBits_getElem (b : Byte) (k : Nat) (h : k < (byteBits b).length) :
    (byteBits b)[k] = b.getLsbD (7 - k) := by simp [byteBits]

@[simp] theorem bytesToBits_nil : bytesToBits [] = [] := rfl

theorem bytesToBits_cons (b : Byte) (s : List Byte) : bytesToBits (b :: s) = byteBits b ++ bytesToBits s := rfl

theorem bytesToBits_append (s t : List Byte) : bytesToBits (s ++ t) = bytesToBits s ++ bytesToBits t := by
  simp [bytesToBits, List.flatMap_append]

@[simp] theorem bytesToBits_length (s : List Byte) : (bytesToBits s).length = 8 * s.length := by
  induction s with
  | nil => rfl
  | cons b s ih => rw [bytesToBits_cons, List.length_append, byteBits_length, ih, List.length_cons]; omega

/-- Element `8j + k` is bit `7 - k` of byte `j` (R100). -/
theorem bytesToBits_getElem? (s : List Byte) (j k : Nat) (hk : k < 8) :
    (bytesToBits s)[8 * j + k]? = (s[j]?).map (fun b => b.getLsbD (7 - k)) := by
  induction s generalizing j with
  | nil => simp
  | cons b s ih =>
    rw [bytesToBits_cons]
    cases j with
    | zero =>
      rw [List.getElem?_append_left (by rw [byteBits_length]; omega),
        List.getElem?_eq_getElem (by rw [byteBits_length]; omega), byteBits_getElem]
      simp
    | succ j =>
      rw [List.getElem?_append_right (by rw [byteBits_length]; omega), byteBits_length,
        show 8 * (j + 1) + k - 8 = 8 * j + k by omega, ih]
      simp

/-- The byte of the eight bits of a byte is that byte. -/
theorem bitsByte_byteBits (b : Byte) :
    bitsByte (b.getLsbD 7) (b.getLsbD 6) (b.getLsbD 5) (b.getLsbD 4) (b.getLsbD 3) (b.getLsbD 2) (b.getLsbD 1)
      (b.getLsbD 0) = b := by
  revert b; decide

theorem bitsByte_getLsbD (b0 b1 b2 b3 b4 b5 b6 b7 : Bit) (k : Nat) (hk : k < 8) :
    (bitsByte b0 b1 b2 b3 b4 b5 b6 b7).getLsbD (7 - k) = [b0, b1, b2, b3, b4, b5, b6, b7].getD k false := by
  revert b0 b1 b2 b3 b4 b5 b6 b7
  obtain rfl | rfl | rfl | rfl | rfl | rfl | rfl | rfl :
      k = 0 ∨ k = 1 ∨ k = 2 ∨ k = 3 ∨ k = 4 ∨ k = 5 ∨ k = 6 ∨ k = 7 := by omega
  all_goals decide

theorem byteBits_eq (b : Byte) : byteBits b = [b.getLsbD 7, b.getLsbD 6, b.getLsbD 5, b.getLsbD 4, b.getLsbD 3,
    b.getLsbD 2, b.getLsbD 1, b.getLsbD 0] := rfl

/-- Packing undoes unpacking (R104). -/
theorem packBits_bytesToBits (s : List Byte) : packBits (bytesToBits s) = s := by
  induction s with
  | nil => rfl
  | cons b s ih =>
    rw [bytesToBits_cons, byteBits_eq]
    simp only [List.cons_append, List.nil_append, packBits, ih, bitsByte_byteBits]

/-- A bit sequence of at least eight elements is eight bits and the rest. -/
theorem exists_eight {b : List Bit} (h : 8 ≤ b.length) :
    ∃ b0 b1 b2 b3 b4 b5 b6 b7 r, b = b0 :: b1 :: b2 :: b3 :: b4 :: b5 :: b6 :: b7 :: r := by
  rcases b with _ | ⟨b0, _ | ⟨b1, _ | ⟨b2, _ | ⟨b3, _ | ⟨b4, _ | ⟨b5, _ | ⟨b6, _ | ⟨b7, r⟩⟩⟩⟩⟩⟩⟩⟩
  all_goals first
    | (exfalso; simp at h; done)
    | exact ⟨_, _, _, _, _, _, _, _, _, rfl⟩

theorem byteBits_bitsByte (b0 b1 b2 b3 b4 b5 b6 b7 : Bit) :
    byteBits (bitsByte b0 b1 b2 b3 b4 b5 b6 b7) = [b0, b1, b2, b3, b4, b5, b6, b7] := by
  revert b0 b1 b2 b3 b4 b5 b6 b7; decide

/-- Unpacking undoes packing of a whole number of bytes (R104). -/
theorem bytesToBits_packBits (n : Nat) : ∀ b : List Bit, b.length = 8 * n → bytesToBits (packBits b) = b := by
  induction n with
  | zero => intro b h; obtain rfl := List.length_eq_zero_iff.mp (by omega : b.length = 0); rfl
  | succ n ih =>
    intro b h
    obtain ⟨b0, b1, b2, b3, b4, b5, b6, b7, r, rfl⟩ := exists_eight (b := b) (by omega)
    simp only [List.length_cons] at h
    rw [packBits, bytesToBits_cons, byteBits_bitsByte, ih r (by omega)]
    rfl

theorem packBits_length (n : Nat) : ∀ b : List Bit, b.length = 8 * n → (packBits b).length = n := by
  intro b h
  have h1 := congrArg List.length (bytesToBits_packBits n b h)
  rw [bytesToBits_length] at h1
  omega

/-- Bit `7 - k` of byte `j` of a packed sequence is its element `8j + k` (R101). -/
theorem packBits_getLsbD {n : Nat} {b : List Bit} (h : b.length = 8 * n) {j k : Nat} (hj : j < n) (hk : k < 8)
    (d : Byte) (e : Bit) : ((packBits b).getD j d).getLsbD (7 - k) = b.getD (8 * j + k) e := by
  have h1 := bytesToBits_getElem? (packBits b) j k hk
  have h2 : j < (packBits b).length := by rw [packBits_length n b h]; exact hj
  have h3 : 8 * j + k < b.length := by omega
  rw [bytesToBits_packBits n b h, List.getElem?_eq_getElem h3, List.getElem?_eq_getElem h2] at h1
  simp only [Option.map_some, Option.some.injEq] at h1
  simp [h2, h3, h1]

@[simp] theorem wordBytes_length (v : Word) : (wordBytes v).length = 4 := rfl

/-- Byte `k` of a word, for `k < 4`. -/
theorem wordBytes_getElem (v : Word) (k : Nat) (h : k < (wordBytes v).length) :
    (wordBytes v)[k] = v.extractLsb' (8 * k) 8 := by
  simp only [wordBytes_length] at h
  obtain rfl | rfl | rfl | rfl : k = 0 ∨ k = 1 ∨ k = 2 ∨ k = 3 := by omega
  all_goals rfl

theorem leWord_wordBytes (v : Word) : leWord (wordBytes v) = v := by
  apply BitVec.eq_of_getLsbD_eq
  intro i hi
  simp only [leWord, wordBytes, BitVec.getLsbD_or, BitVec.getLsbD_setWidth, BitVec.getLsbD_shiftLeft,
    BitVec.getLsbD_extractLsb', BitVec.getLsbD_zero]
  interval_cases i <;> simp

theorem wordBytes_leWord (b0 b1 b2 b3 : Byte) : wordBytes (leWord [b0, b1, b2, b3]) = [b0, b1, b2, b3] := by
  simp only [wordBytes, List.cons.injEq, and_true]
  refine ⟨?_, ?_, ?_, ?_⟩
  all_goals
    apply BitVec.eq_of_getLsbD_eq
    intro i hi
    simp only [leWord, BitVec.getLsbD_or, BitVec.getLsbD_setWidth, BitVec.getLsbD_shiftLeft,
      BitVec.getLsbD_extractLsb', BitVec.getLsbD_zero]
    interval_cases i <;> simp

@[simp] theorem encodeHeader_length (n : Word) : (encodeHeader n).length = 32 := by simp [encodeHeader]

/-- Header bit `8j + k` is bit `8j + 7 - k` of the value (R120). -/
theorem encodeHeader_getD (n : Word) (j k : Nat) (hj : j < 4) (hk : k < 8) (e : Bit) :
    (encodeHeader n).getD (8 * j + k) e = n.getLsbD (8 * j + 7 - k) := by
  have h1 := bytesToBits_getElem? (wordBytes n) j k hk
  have hw : (wordBytes n)[j]? = some (n.extractLsb' (8 * j) 8) := by
    rw [List.getElem?_eq_getElem (by simpa using hj : j < (wordBytes n).length), wordBytes_getElem]
  rw [hw] at h1
  rw [encodeHeader, List.getD_eq_getElem?_getD, h1]
  simp only [Option.map_some, Option.getD_some, BitVec.getLsbD_extractLsb']
  rw [show 8 * j + 7 - k = 8 * j + (7 - k) by omega]
  simp [show 7 - k < 8 by omega]

theorem headerValue_encodeHeader (n : Word) (r : List Bit) : headerValue (encodeHeader n ++ r) = n := by
  have h : (encodeHeader n ++ r).take Config.hdrBits = encodeHeader n :=
    List.take_left' (encodeHeader_length n)
  rw [headerValue, h, encodeHeader, packBits_bytesToBits, leWord_wordBytes]

/-- A header decodes to a value whose encoding is that header (R128). -/
theorem encodeHeader_headerValue {b : List Bit} (h : 32 ≤ b.length) : encodeHeader (headerValue b) = b.take 32 := by
  have h1 : (b.take 32).length = 8 * 4 := by rw [List.length_take]; omega
  have h2 := packBits_length 4 _ h1
  have h3 := bytesToBits_packBits 4 _ h1
  rw [headerValue, encodeHeader]
  show bytesToBits (wordBytes (leWord (packBits (b.take 32)))) = b.take 32
  obtain ⟨p, q, r, u, hp⟩ : ∃ p q r u, packBits (b.take 32) = [p, q, r, u] := by
    rcases hb : packBits (b.take 32) with _ | ⟨p, _ | ⟨q, _ | ⟨r, _ | ⟨u, _ | ⟨v, l⟩⟩⟩⟩⟩
    all_goals rw [hb] at h2
    all_goals first
      | (exfalso; simp at h2; done)
      | exact ⟨_, _, _, _, rfl⟩
  rw [hp, wordBytes_leWord, ← hp, h3]

/-- Only the first 32 bits are the header. -/
theorem headerValue_take {b : List Bit} {n : Nat} (h : 32 ≤ n) : headerValue (b.take n) = headerValue b := by
  rw [headerValue, headerValue, List.take_take, Nat.min_eq_left (show Config.hdrBits ≤ n from h)]

theorem frameBits_length (p z : List Bit) : (frameBits p z).length = 32 + p.length + z.length := by
  simp [frameBits, Nat.add_assoc]

theorem embed_length {x : List Byte} {f : List Bit} (h : x.length = f.length) : (embed x f).length = x.length := by
  simp [embed, h]

@[simp] theorem extract_length (x : List Byte) : (extract x).length = x.length := by simp [extract]

theorem extract_getElem (x : List Byte) (i : Nat) (h : i < (extract x).length) :
    (extract x)[i] = (x[i]'(by simpa using h)).getLsbD 0 := by simp [extract, extractByte]

/-- One pixel: bit 0 becomes the embedded bit, bits 7..1 stay (R160). -/
theorem embedByte_getLsbD (x : Byte) (f : Bit) (k : Nat) :
    (embedByte x f).getLsbD k = if k = 0 then f else x.getLsbD k := by
  by_cases h : k < 8
  · revert x f
    obtain rfl | rfl | rfl | rfl | rfl | rfl | rfl | rfl :
        k = 0 ∨ k = 1 ∨ k = 2 ∨ k = 3 ∨ k = 4 ∨ k = 5 ∨ k = 6 ∨ k = 7 := by omega
    all_goals decide
  · rw [BitVec.getLsbD_of_ge _ _ (by omega), BitVec.getLsbD_of_ge _ _ (by omega)]
    simp [show k ≠ 0 by omega]

theorem embedByte_shift (x : Byte) (f : Bit) : (embedByte x f) >>> 1 = x >>> 1 := by
  revert x f; decide

theorem extract_embed {x : List Byte} {f : List Bit} (h : x.length = f.length) : extract (embed x f) = f := by
  apply List.ext_getElem
  · simp [embed, h]
  · intro i h1 h2
    rw [extract_getElem]
    simp only [embed, List.getElem_zipWith, embedByte_getLsbD, if_true]

end Sys2Proof.Machine
end

