-- ==== Sys2Proof/Laws/Config.lean ====
section
/-! SUPPORT. The values of the named constants, for rewriting without unfolding them. -/

namespace Sys2Proof.Machine

theorem hdrBits_eq : Config.hdrBits = 32 := rfl
theorem csrEnd_eq : Config.csrEnd = 0x1000 := rfl
theorem windowSpan_eq : Config.windowSpan = 0x10000000 := rfl
theorem sizeLimit_eq : Config.sizeLimit = 0x10000000 := rfl
theorem pixw_base : Window.pixw.base = 0x10000000 := rfl
theorem payw_base : Window.payw.base = 0x20000000 := rfl
theorem bitw_base : Window.bitw.base = 0x30000000 := rfl
theorem bitMax_eq (s : State) : s.bitMax = s.pixMax := rfl
theorem windowSize_pixw (s : State) : s.windowSize .pixw = s.pixMax := rfl
theorem windowSize_payw (s : State) : s.windowSize .payw = s.payMax := rfl
theorem windowSize_bitw (s : State) : s.windowSize .bitw = s.pixMax := rfl

/-- The bounds of R7 as inequalities. -/
theorem paramsWf_iff {p q : Nat} :
    paramsWf p q = true ↔ 32 ≤ p ∧ p ≤ 0x10000000 ∧ 1 ≤ q ∧ q ≤ 0x10000000 := by
  rw [paramsWf, hdrBits_eq, sizeLimit_eq]
  simp only [Bool.and_eq_true, decide_eq_true_eq, and_assoc]

end Sys2Proof.Machine
end

