-- ==== Sys2Proof/Laws/Memory.lean ====
section
/-! SUPPORT. The laws of the memories: a read after a write, and that writing keeps the canonical form. -/

namespace Sys2Proof.Machine

variable {α : Type}

@[simp] theorem Memory.get_nil (i : Nat) : Memory.get ([] : Memory α) i = none := rfl

theorem Memory.get_append (m m' : Memory α) (i : Nat) :
    Memory.get (m ++ m') i = (Memory.get m i).or (Memory.get m' i) := by
  induction m with
  | nil => rfl
  | cons c m ih =>
    obtain ⟨a, v⟩ := c
    simp only [List.cons_append, Memory.get]
    split
    · rfl
    · exact ih

/-- Keeping only the cells that `p` selects leaves the reads of those cells as they are, and lists no other. -/
theorem Memory.get_filter (p : Nat → Bool) (m : Memory α) (i : Nat) :
    Memory.get (m.filter (fun c => p c.1)) i = if p i then Memory.get m i else none := by
  induction m with
  | nil => simp
  | cons c m ih =>
    obtain ⟨a, v⟩ := c
    by_cases hp : p a
    · rw [List.filter_cons_of_pos (by simpa using hp)]
      simp only [Memory.get]
      by_cases ha : a = i
      · subst ha; simp [hp]
      · simp only [ha, if_false]; exact ih
    · rw [List.filter_cons_of_neg (by simpa using hp), ih]
      by_cases ha : a = i
      · subst ha; simp [hp]
      · simp [Memory.get, ha]

theorem Memory.get_block (start : Nat) (vs : List α) (i : Nat) :
    Memory.get (Memory.block start vs) i = if start ≤ i then vs[i - start]? else none := by
  induction vs generalizing start with
  | nil => simp [Memory.block]
  | cons v vs ih =>
    simp only [Memory.block, Memory.get, ih]
    by_cases h : start = i
    · subst h; simp
    · by_cases h1 : start ≤ i
      · have h2 : i - start = (i - (start + 1)) + 1 := by omega
        simp [h, h1, show start + 1 ≤ i by omega, h2]
      · simp [h, h1, show ¬ start + 1 ≤ i by omega]

/-- A read after a write: the written value inside the written cells, the old one outside. -/
theorem Memory.get_write (m : Memory α) (start : Nat) (vs : List α) (i : Nat) :
    (m.write start vs).get i = if start ≤ i ∧ i < start + vs.length then vs[i - start]? else m.get i := by
  unfold Memory.write
  rw [Memory.get_append, Memory.get_append, Memory.get_block,
    Memory.get_filter (fun a => decide (a < start)), Memory.get_filter (fun a => decide (start + vs.length ≤ a))]
  by_cases h1 : i < start
  · simp [h1, show ¬ start ≤ i by omega, show ¬ start + vs.length ≤ i by omega]
  · by_cases h2 : i < start + vs.length
    · have h3 : i - start < vs.length := by omega
      simp [h1, h2, show start ≤ i by omega, h3]
    · have h3 : vs.length ≤ i - start := by omega
      simp [h1, h2, show start ≤ i by omega, show start + vs.length ≤ i by omega, h3]

theorem Memory.mem_block_fst {start : Nat} {vs : List α} {c : Nat × α} (h : c ∈ Memory.block start vs) :
    start ≤ c.1 ∧ c.1 < start + vs.length := by
  induction vs generalizing start with
  | nil => simp [Memory.block] at h
  | cons v vs ih =>
    simp only [Memory.block, List.mem_cons] at h
    rcases h with h | h
    · subst h; simp
    · have := ih h; simp only [List.length_cons]; omega

theorem Memory.block_wf (start : Nat) (vs : List α) : (Memory.block start vs).wf := by
  induction vs generalizing start with
  | nil => exact List.Pairwise.nil
  | cons v vs ih =>
    simp only [Memory.wf, Memory.block, List.map_cons, List.pairwise_cons]
    refine ⟨fun a ha => ?_, ih (start + 1)⟩
    obtain ⟨c, hc, rfl⟩ := List.mem_map.mp ha
    have := Memory.mem_block_fst hc
    omega

theorem Memory.filter_wf (p : Nat × α → Bool) {m : Memory α} (h : m.wf) : Memory.wf (m.filter p) :=
  List.Pairwise.sublist ((List.filter_sublist).map Prod.fst) h

/-- Writing keeps the canonical form. -/
theorem Memory.write_wf {m : Memory α} (h : m.wf) (start : Nat) (vs : List α) : (m.write start vs).wf := by
  unfold Memory.wf Memory.write
  rw [List.map_append, List.map_append, List.pairwise_append, List.pairwise_append]
  refine ⟨⟨Memory.filter_wf _ h, Memory.block_wf start vs, ?_⟩, Memory.filter_wf _ h, ?_⟩
  · intro a ha b hb
    obtain ⟨c, hc, rfl⟩ := List.mem_map.mp ha
    obtain ⟨d, hd, rfl⟩ := List.mem_map.mp hb
    have h1 := (List.mem_filter.mp hc).2
    have h2 := Memory.mem_block_fst hd
    simp only [decide_eq_true_eq] at h1
    omega
  · intro a ha b hb
    obtain ⟨d, hd, rfl⟩ := List.mem_map.mp hb
    have h2 := (List.mem_filter.mp hd).2
    simp only [decide_eq_true_eq] at h2
    rcases List.mem_append.mp ha with ha | ha
    · obtain ⟨c, hc, rfl⟩ := List.mem_map.mp ha
      have h1 := (List.mem_filter.mp hc).2
      simp only [decide_eq_true_eq] at h1
      omega
    · obtain ⟨c, hc, rfl⟩ := List.mem_map.mp ha
      have := Memory.mem_block_fst hc
      omega

/-- Writing existing cells lists only existing cells. -/
theorem Memory.write_within {m : Memory α} {size : Nat} (h : m.within size) {start : Nat} {vs : List α}
    (hv : start + vs.length ≤ size) : (m.write start vs).within size := by
  intro c hc
  unfold Memory.write at hc
  rcases List.mem_append.mp hc with hc | hc
  · rcases List.mem_append.mp hc with hc | hc
    · exact h c (List.mem_filter.mp hc).1
    · have := Memory.mem_block_fst hc; omega
  · exact h c (List.mem_filter.mp hc).1

theorem Memory.filter_lt_write (m : Memory α) (start : Nat) (vs : List α) :
    (m.write start vs).filter (fun c => c.1 < start) = m.filter (fun c => c.1 < start) := by
  have h1 : (Memory.block start vs).filter (fun c => c.1 < start) = [] := by
    rw [List.filter_eq_nil_iff]
    intro c hc
    have := Memory.mem_block_fst hc
    simp only [decide_eq_true_eq]; omega
  have h2 : (m.filter (fun c => start + vs.length ≤ c.1)).filter (fun c => c.1 < start) = [] := by
    rw [List.filter_eq_nil_iff]
    intro c hc
    have := (List.mem_filter.mp hc).2
    simp only [decide_eq_true_eq] at this ⊢; omega
  unfold Memory.write
  rw [List.filter_append, List.filter_append, h1, h2, List.filter_filter]
  simp

/-- Cutting off the first `k` values of a block leaves the block of the values after them. -/
theorem Memory.filter_ge_block (start k : Nat) (vs : List α) :
    (Memory.block start vs).filter (fun c => start + k ≤ c.1) = Memory.block (start + k) (vs.drop k) := by
  induction vs generalizing start k with
  | nil => simp [Memory.block]
  | cons v vs ih =>
    cases k with
    | zero =>
      rw [List.drop_zero, Nat.add_zero, List.filter_eq_self]
      intro c hc
      have := Memory.mem_block_fst hc
      simp only [decide_eq_true_eq]; omega
    | succ k =>
      simp only [Memory.block, List.drop_succ_cons]
      rw [List.filter_cons_of_neg (by simp)]
      have := ih (start + 1) k
      rwa [show start + 1 + k = start + (k + 1) by omega] at this

theorem Memory.block_append (start : Nat) (vs ws : List α) :
    Memory.block start (vs ++ ws) = Memory.block start vs ++ Memory.block (start + vs.length) ws := by
  induction vs generalizing start with
  | nil => simp [Memory.block]
  | cons v vs ih =>
    simp only [List.cons_append, Memory.block, ih, List.length_cons]
    rw [show start + 1 + vs.length = start + (vs.length + 1) by omega]

/-- A write over the first cells of an earlier write at the same place is one write of the new values followed by
what is left of the old ones. -/
theorem Memory.write_write (m : Memory α) (start : Nat) {vs ws : List α} (h : ws.length ≤ vs.length) :
    (m.write start vs).write start ws = m.write start (ws ++ vs.drop ws.length) := by
  have h3 : (m.write start vs).filter (fun c => start + ws.length ≤ c.1) =
      Memory.block (start + ws.length) (vs.drop ws.length) ++ m.filter (fun c => start + vs.length ≤ c.1) := by
    have h1 : (m.filter (fun c => c.1 < start)).filter (fun c => start + ws.length ≤ c.1) = [] := by
      rw [List.filter_eq_nil_iff]
      intro c hc
      have := (List.mem_filter.mp hc).2
      simp only [decide_eq_true_eq] at this ⊢; omega
    have h2 : (m.filter (fun c => start + vs.length ≤ c.1)).filter (fun c => start + ws.length ≤ c.1) =
        m.filter (fun c => start + vs.length ≤ c.1) := by
      rw [List.filter_eq_self]
      intro c hc
      have := (List.mem_filter.mp hc).2
      simp only [decide_eq_true_eq] at this ⊢; omega
    unfold Memory.write
    rw [List.filter_append, List.filter_append, h1, h2, Memory.filter_ge_block]
    simp
  have h4 : (ws ++ vs.drop ws.length).length = vs.length := by
    rw [List.length_append, List.length_drop]; omega
  conv_lhs => rw [Memory.write]
  rw [Memory.filter_lt_write, h3, Memory.write, h4, Memory.block_append]
  simp only [List.append_assoc]

/-- A write over a shorter earlier one at the same place leaves nothing of it. -/
theorem Memory.write_over (m : Memory α) (start : Nat) {vs ws : List α} (h : vs.length ≤ ws.length) :
    (m.write start vs).write start ws = m.write start ws := by
  have h3 : (m.write start vs).filter (fun c => start + ws.length ≤ c.1) =
      m.filter (fun c => start + ws.length ≤ c.1) := by
    have h1 : (m.filter (fun c => c.1 < start)).filter (fun c => start + ws.length ≤ c.1) = [] := by
      rw [List.filter_eq_nil_iff]
      intro c hc
      have := (List.mem_filter.mp hc).2
      simp only [decide_eq_true_eq] at this ⊢; omega
    have h2 : (Memory.block start vs).filter (fun c => start + ws.length ≤ c.1) = [] := by
      rw [List.filter_eq_nil_iff]
      intro c hc
      have := Memory.mem_block_fst hc
      simp only [decide_eq_true_eq]; omega
    unfold Memory.write
    rw [List.filter_append, List.filter_append, h1, h2, List.filter_filter, List.nil_append, List.nil_append]
    apply List.filter_congr
    intro c _
    simp only [Bool.and_eq_left_iff_imp, decide_eq_true_eq]; omega
  conv_lhs => rw [Memory.write]
  rw [Memory.filter_lt_write, h3, Memory.write]

/-- Writing the same values again changes nothing. -/
theorem Memory.write_again (m : Memory α) (start : Nat) (vs : List α) :
    (m.write start vs).write start vs = m.write start vs := by
  rw [Memory.write_write m start (le_refl vs.length), List.drop_length, List.append_nil]

end Sys2Proof.Machine
end

