-- ==== Sys2Proof/Laws/State.lean ====
section
/-! SUPPORT. What each update of State does to each field, one lemma a field, all true by definition. -/

namespace Sys2Proof.Machine

variable (s : State)

/-! `State.writePix` -/

@[simp] theorem State.writePix_pixMax (n : Nat) (vs : List Byte) : (s.writePix n vs).pixMax = s.pixMax := rfl
@[simp] theorem State.writePix_payMax (n : Nat) (vs : List Byte) : (s.writePix n vs).payMax = s.payMax := rfl
@[simp] theorem State.writePix_irqen (n : Nat) (vs : List Byte) : (s.writePix n vs).irqen = s.irqen := rfl
@[simp] theorem State.writePix_fill (n : Nat) (vs : List Byte) : (s.writePix n vs).fill = s.fill := rfl
@[simp] theorem State.writePix_done (n : Nat) (vs : List Byte) : (s.writePix n vs).done = s.done := rfl
@[simp] theorem State.writePix_errcode (n : Nat) (vs : List Byte) : (s.writePix n vs).errcode = s.errcode := rfl
@[simp] theorem State.writePix_pixcnt (n : Nat) (vs : List Byte) : (s.writePix n vs).pixcnt = s.pixcnt := rfl
@[simp] theorem State.writePix_paylen (n : Nat) (vs : List Byte) : (s.writePix n vs).paylen = s.paylen := rfl
@[simp] theorem State.writePix_bitlen (n : Nat) (vs : List Byte) : (s.writePix n vs).bitlen = s.bitlen := rfl
@[simp] theorem State.writePix_hdrval (n : Nat) (vs : List Byte) : (s.writePix n vs).hdrval = s.hdrval := rfl
@[simp] theorem State.writePix_pix (n : Nat) (vs : List Byte) : (s.writePix n vs).pix = s.pix.write n vs := rfl
@[simp] theorem State.writePix_pay (n : Nat) (vs : List Byte) : (s.writePix n vs).pay = s.pay := rfl
@[simp] theorem State.writePix_bit (n : Nat) (vs : List Byte) : (s.writePix n vs).bit = s.bit := rfl
@[simp] theorem State.writePix_inFlight (n : Nat) (vs : List Byte) : (s.writePix n vs).inFlight = s.inFlight := rfl
@[simp] theorem State.writePix_epoch (n : Nat) (vs : List Byte) : (s.writePix n vs).epoch = s.epoch := rfl
@[simp] theorem State.writePix_fillCount (n : Nat) (vs : List Byte) : (s.writePix n vs).fillCount = s.fillCount := rfl
@[simp] theorem State.writePix_hostOps (n : Nat) (vs : List Byte) : (s.writePix n vs).hostOps = s.hostOps := rfl
@[simp] theorem State.writePix_halted (n : Nat) (vs : List Byte) : (s.writePix n vs).halted = s.halted := rfl
@[simp] theorem State.writePix_turns (n : Nat) (vs : List Byte) : (s.writePix n vs).turns = s.turns := rfl
@[simp] theorem State.writePix_answers (n : Nat) (vs : List Byte) : (s.writePix n vs).answers = s.answers := rfl

/-! `State.writePay` -/

@[simp] theorem State.writePay_pixMax (n : Nat) (vs : List Byte) : (s.writePay n vs).pixMax = s.pixMax := rfl
@[simp] theorem State.writePay_payMax (n : Nat) (vs : List Byte) : (s.writePay n vs).payMax = s.payMax := rfl
@[simp] theorem State.writePay_irqen (n : Nat) (vs : List Byte) : (s.writePay n vs).irqen = s.irqen := rfl
@[simp] theorem State.writePay_fill (n : Nat) (vs : List Byte) : (s.writePay n vs).fill = s.fill := rfl
@[simp] theorem State.writePay_done (n : Nat) (vs : List Byte) : (s.writePay n vs).done = s.done := rfl
@[simp] theorem State.writePay_errcode (n : Nat) (vs : List Byte) : (s.writePay n vs).errcode = s.errcode := rfl
@[simp] theorem State.writePay_pixcnt (n : Nat) (vs : List Byte) : (s.writePay n vs).pixcnt = s.pixcnt := rfl
@[simp] theorem State.writePay_paylen (n : Nat) (vs : List Byte) : (s.writePay n vs).paylen = s.paylen := rfl
@[simp] theorem State.writePay_bitlen (n : Nat) (vs : List Byte) : (s.writePay n vs).bitlen = s.bitlen := rfl
@[simp] theorem State.writePay_hdrval (n : Nat) (vs : List Byte) : (s.writePay n vs).hdrval = s.hdrval := rfl
@[simp] theorem State.writePay_pix (n : Nat) (vs : List Byte) : (s.writePay n vs).pix = s.pix := rfl
@[simp] theorem State.writePay_pay (n : Nat) (vs : List Byte) : (s.writePay n vs).pay = s.pay.write n vs := rfl
@[simp] theorem State.writePay_bit (n : Nat) (vs : List Byte) : (s.writePay n vs).bit = s.bit := rfl
@[simp] theorem State.writePay_inFlight (n : Nat) (vs : List Byte) : (s.writePay n vs).inFlight = s.inFlight := rfl
@[simp] theorem State.writePay_epoch (n : Nat) (vs : List Byte) : (s.writePay n vs).epoch = s.epoch := rfl
@[simp] theorem State.writePay_fillCount (n : Nat) (vs : List Byte) : (s.writePay n vs).fillCount = s.fillCount := rfl
@[simp] theorem State.writePay_hostOps (n : Nat) (vs : List Byte) : (s.writePay n vs).hostOps = s.hostOps := rfl
@[simp] theorem State.writePay_halted (n : Nat) (vs : List Byte) : (s.writePay n vs).halted = s.halted := rfl
@[simp] theorem State.writePay_turns (n : Nat) (vs : List Byte) : (s.writePay n vs).turns = s.turns := rfl
@[simp] theorem State.writePay_answers (n : Nat) (vs : List Byte) : (s.writePay n vs).answers = s.answers := rfl

/-! `State.writeBit` -/

@[simp] theorem State.writeBit_pixMax (n : Nat) (vs : List Bit) : (s.writeBit n vs).pixMax = s.pixMax := rfl
@[simp] theorem State.writeBit_payMax (n : Nat) (vs : List Bit) : (s.writeBit n vs).payMax = s.payMax := rfl
@[simp] theorem State.writeBit_irqen (n : Nat) (vs : List Bit) : (s.writeBit n vs).irqen = s.irqen := rfl
@[simp] theorem State.writeBit_fill (n : Nat) (vs : List Bit) : (s.writeBit n vs).fill = s.fill := rfl
@[simp] theorem State.writeBit_done (n : Nat) (vs : List Bit) : (s.writeBit n vs).done = s.done := rfl
@[simp] theorem State.writeBit_errcode (n : Nat) (vs : List Bit) : (s.writeBit n vs).errcode = s.errcode := rfl
@[simp] theorem State.writeBit_pixcnt (n : Nat) (vs : List Bit) : (s.writeBit n vs).pixcnt = s.pixcnt := rfl
@[simp] theorem State.writeBit_paylen (n : Nat) (vs : List Bit) : (s.writeBit n vs).paylen = s.paylen := rfl
@[simp] theorem State.writeBit_bitlen (n : Nat) (vs : List Bit) : (s.writeBit n vs).bitlen = s.bitlen := rfl
@[simp] theorem State.writeBit_hdrval (n : Nat) (vs : List Bit) : (s.writeBit n vs).hdrval = s.hdrval := rfl
@[simp] theorem State.writeBit_pix (n : Nat) (vs : List Bit) : (s.writeBit n vs).pix = s.pix := rfl
@[simp] theorem State.writeBit_pay (n : Nat) (vs : List Bit) : (s.writeBit n vs).pay = s.pay := rfl
@[simp] theorem State.writeBit_bit (n : Nat) (vs : List Bit) : (s.writeBit n vs).bit = s.bit.write n vs := rfl
@[simp] theorem State.writeBit_inFlight (n : Nat) (vs : List Bit) : (s.writeBit n vs).inFlight = s.inFlight := rfl
@[simp] theorem State.writeBit_epoch (n : Nat) (vs : List Bit) : (s.writeBit n vs).epoch = s.epoch := rfl
@[simp] theorem State.writeBit_fillCount (n : Nat) (vs : List Bit) : (s.writeBit n vs).fillCount = s.fillCount := rfl
@[simp] theorem State.writeBit_hostOps (n : Nat) (vs : List Bit) : (s.writeBit n vs).hostOps = s.hostOps := rfl
@[simp] theorem State.writeBit_halted (n : Nat) (vs : List Bit) : (s.writeBit n vs).halted = s.halted := rfl
@[simp] theorem State.writeBit_turns (n : Nat) (vs : List Bit) : (s.writeBit n vs).turns = s.turns := rfl
@[simp] theorem State.writeBit_answers (n : Nat) (vs : List Bit) : (s.writeBit n vs).answers = s.answers := rfl

/-! `State.setPixcnt` -/

@[simp] theorem State.setPixcnt_pixMax (v : Word) : (s.setPixcnt v).pixMax = s.pixMax := rfl
@[simp] theorem State.setPixcnt_payMax (v : Word) : (s.setPixcnt v).payMax = s.payMax := rfl
@[simp] theorem State.setPixcnt_irqen (v : Word) : (s.setPixcnt v).irqen = s.irqen := rfl
@[simp] theorem State.setPixcnt_fill (v : Word) : (s.setPixcnt v).fill = s.fill := rfl
@[simp] theorem State.setPixcnt_done (v : Word) : (s.setPixcnt v).done = s.done := rfl
@[simp] theorem State.setPixcnt_errcode (v : Word) : (s.setPixcnt v).errcode = s.errcode := rfl
@[simp] theorem State.setPixcnt_pixcnt (v : Word) : (s.setPixcnt v).pixcnt = v := rfl
@[simp] theorem State.setPixcnt_paylen (v : Word) : (s.setPixcnt v).paylen = s.paylen := rfl
@[simp] theorem State.setPixcnt_bitlen (v : Word) : (s.setPixcnt v).bitlen = s.bitlen := rfl
@[simp] theorem State.setPixcnt_hdrval (v : Word) : (s.setPixcnt v).hdrval = s.hdrval := rfl
@[simp] theorem State.setPixcnt_pix (v : Word) : (s.setPixcnt v).pix = s.pix := rfl
@[simp] theorem State.setPixcnt_pay (v : Word) : (s.setPixcnt v).pay = s.pay := rfl
@[simp] theorem State.setPixcnt_bit (v : Word) : (s.setPixcnt v).bit = s.bit := rfl
@[simp] theorem State.setPixcnt_inFlight (v : Word) : (s.setPixcnt v).inFlight = s.inFlight := rfl
@[simp] theorem State.setPixcnt_epoch (v : Word) : (s.setPixcnt v).epoch = s.epoch := rfl
@[simp] theorem State.setPixcnt_fillCount (v : Word) : (s.setPixcnt v).fillCount = s.fillCount := rfl
@[simp] theorem State.setPixcnt_hostOps (v : Word) : (s.setPixcnt v).hostOps = s.hostOps := rfl
@[simp] theorem State.setPixcnt_halted (v : Word) : (s.setPixcnt v).halted = s.halted := rfl
@[simp] theorem State.setPixcnt_turns (v : Word) : (s.setPixcnt v).turns = s.turns := rfl
@[simp] theorem State.setPixcnt_answers (v : Word) : (s.setPixcnt v).answers = s.answers := rfl

/-! `State.setPaylen` -/

@[simp] theorem State.setPaylen_pixMax (v : Word) : (s.setPaylen v).pixMax = s.pixMax := rfl
@[simp] theorem State.setPaylen_payMax (v : Word) : (s.setPaylen v).payMax = s.payMax := rfl
@[simp] theorem State.setPaylen_irqen (v : Word) : (s.setPaylen v).irqen = s.irqen := rfl
@[simp] theorem State.setPaylen_fill (v : Word) : (s.setPaylen v).fill = s.fill := rfl
@[simp] theorem State.setPaylen_done (v : Word) : (s.setPaylen v).done = s.done := rfl
@[simp] theorem State.setPaylen_errcode (v : Word) : (s.setPaylen v).errcode = s.errcode := rfl
@[simp] theorem State.setPaylen_pixcnt (v : Word) : (s.setPaylen v).pixcnt = s.pixcnt := rfl
@[simp] theorem State.setPaylen_paylen (v : Word) : (s.setPaylen v).paylen = v := rfl
@[simp] theorem State.setPaylen_bitlen (v : Word) : (s.setPaylen v).bitlen = s.bitlen := rfl
@[simp] theorem State.setPaylen_hdrval (v : Word) : (s.setPaylen v).hdrval = s.hdrval := rfl
@[simp] theorem State.setPaylen_pix (v : Word) : (s.setPaylen v).pix = s.pix := rfl
@[simp] theorem State.setPaylen_pay (v : Word) : (s.setPaylen v).pay = s.pay := rfl
@[simp] theorem State.setPaylen_bit (v : Word) : (s.setPaylen v).bit = s.bit := rfl
@[simp] theorem State.setPaylen_inFlight (v : Word) : (s.setPaylen v).inFlight = s.inFlight := rfl
@[simp] theorem State.setPaylen_epoch (v : Word) : (s.setPaylen v).epoch = s.epoch := rfl
@[simp] theorem State.setPaylen_fillCount (v : Word) : (s.setPaylen v).fillCount = s.fillCount := rfl
@[simp] theorem State.setPaylen_hostOps (v : Word) : (s.setPaylen v).hostOps = s.hostOps := rfl
@[simp] theorem State.setPaylen_halted (v : Word) : (s.setPaylen v).halted = s.halted := rfl
@[simp] theorem State.setPaylen_turns (v : Word) : (s.setPaylen v).turns = s.turns := rfl
@[simp] theorem State.setPaylen_answers (v : Word) : (s.setPaylen v).answers = s.answers := rfl

/-! `State.setBitlen` -/

@[simp] theorem State.setBitlen_pixMax (v : Word) : (s.setBitlen v).pixMax = s.pixMax := rfl
@[simp] theorem State.setBitlen_payMax (v : Word) : (s.setBitlen v).payMax = s.payMax := rfl
@[simp] theorem State.setBitlen_irqen (v : Word) : (s.setBitlen v).irqen = s.irqen := rfl
@[simp] theorem State.setBitlen_fill (v : Word) : (s.setBitlen v).fill = s.fill := rfl
@[simp] theorem State.setBitlen_done (v : Word) : (s.setBitlen v).done = s.done := rfl
@[simp] theorem State.setBitlen_errcode (v : Word) : (s.setBitlen v).errcode = s.errcode := rfl
@[simp] theorem State.setBitlen_pixcnt (v : Word) : (s.setBitlen v).pixcnt = s.pixcnt := rfl
@[simp] theorem State.setBitlen_paylen (v : Word) : (s.setBitlen v).paylen = s.paylen := rfl
@[simp] theorem State.setBitlen_bitlen (v : Word) : (s.setBitlen v).bitlen = v := rfl
@[simp] theorem State.setBitlen_hdrval (v : Word) : (s.setBitlen v).hdrval = s.hdrval := rfl
@[simp] theorem State.setBitlen_pix (v : Word) : (s.setBitlen v).pix = s.pix := rfl
@[simp] theorem State.setBitlen_pay (v : Word) : (s.setBitlen v).pay = s.pay := rfl
@[simp] theorem State.setBitlen_bit (v : Word) : (s.setBitlen v).bit = s.bit := rfl
@[simp] theorem State.setBitlen_inFlight (v : Word) : (s.setBitlen v).inFlight = s.inFlight := rfl
@[simp] theorem State.setBitlen_epoch (v : Word) : (s.setBitlen v).epoch = s.epoch := rfl
@[simp] theorem State.setBitlen_fillCount (v : Word) : (s.setBitlen v).fillCount = s.fillCount := rfl
@[simp] theorem State.setBitlen_hostOps (v : Word) : (s.setBitlen v).hostOps = s.hostOps := rfl
@[simp] theorem State.setBitlen_halted (v : Word) : (s.setBitlen v).halted = s.halted := rfl
@[simp] theorem State.setBitlen_turns (v : Word) : (s.setBitlen v).turns = s.turns := rfl
@[simp] theorem State.setBitlen_answers (v : Word) : (s.setBitlen v).answers = s.answers := rfl

/-! `State.setHdrval` -/

@[simp] theorem State.setHdrval_pixMax (v : Word) : (s.setHdrval v).pixMax = s.pixMax := rfl
@[simp] theorem State.setHdrval_payMax (v : Word) : (s.setHdrval v).payMax = s.payMax := rfl
@[simp] theorem State.setHdrval_irqen (v : Word) : (s.setHdrval v).irqen = s.irqen := rfl
@[simp] theorem State.setHdrval_fill (v : Word) : (s.setHdrval v).fill = s.fill := rfl
@[simp] theorem State.setHdrval_done (v : Word) : (s.setHdrval v).done = s.done := rfl
@[simp] theorem State.setHdrval_errcode (v : Word) : (s.setHdrval v).errcode = s.errcode := rfl
@[simp] theorem State.setHdrval_pixcnt (v : Word) : (s.setHdrval v).pixcnt = s.pixcnt := rfl
@[simp] theorem State.setHdrval_paylen (v : Word) : (s.setHdrval v).paylen = s.paylen := rfl
@[simp] theorem State.setHdrval_bitlen (v : Word) : (s.setHdrval v).bitlen = s.bitlen := rfl
@[simp] theorem State.setHdrval_hdrval (v : Word) : (s.setHdrval v).hdrval = v := rfl
@[simp] theorem State.setHdrval_pix (v : Word) : (s.setHdrval v).pix = s.pix := rfl
@[simp] theorem State.setHdrval_pay (v : Word) : (s.setHdrval v).pay = s.pay := rfl
@[simp] theorem State.setHdrval_bit (v : Word) : (s.setHdrval v).bit = s.bit := rfl
@[simp] theorem State.setHdrval_inFlight (v : Word) : (s.setHdrval v).inFlight = s.inFlight := rfl
@[simp] theorem State.setHdrval_epoch (v : Word) : (s.setHdrval v).epoch = s.epoch := rfl
@[simp] theorem State.setHdrval_fillCount (v : Word) : (s.setHdrval v).fillCount = s.fillCount := rfl
@[simp] theorem State.setHdrval_hostOps (v : Word) : (s.setHdrval v).hostOps = s.hostOps := rfl
@[simp] theorem State.setHdrval_halted (v : Word) : (s.setHdrval v).halted = s.halted := rfl
@[simp] theorem State.setHdrval_turns (v : Word) : (s.setHdrval v).turns = s.turns := rfl
@[simp] theorem State.setHdrval_answers (v : Word) : (s.setHdrval v).answers = s.answers := rfl

/-! `State.setCtrl` -/

@[simp] theorem State.setCtrl_pixMax (v : Word) : (s.setCtrl v).pixMax = s.pixMax := rfl
@[simp] theorem State.setCtrl_payMax (v : Word) : (s.setCtrl v).payMax = s.payMax := rfl
@[simp] theorem State.setCtrl_irqen (v : Word) : (s.setCtrl v).irqen = v.getLsbD 0 := rfl
@[simp] theorem State.setCtrl_fill (v : Word) : (s.setCtrl v).fill = v.getLsbD 1 := rfl
@[simp] theorem State.setCtrl_done (v : Word) : (s.setCtrl v).done = s.done := rfl
@[simp] theorem State.setCtrl_errcode (v : Word) : (s.setCtrl v).errcode = s.errcode := rfl
@[simp] theorem State.setCtrl_pixcnt (v : Word) : (s.setCtrl v).pixcnt = s.pixcnt := rfl
@[simp] theorem State.setCtrl_paylen (v : Word) : (s.setCtrl v).paylen = s.paylen := rfl
@[simp] theorem State.setCtrl_bitlen (v : Word) : (s.setCtrl v).bitlen = s.bitlen := rfl
@[simp] theorem State.setCtrl_hdrval (v : Word) : (s.setCtrl v).hdrval = s.hdrval := rfl
@[simp] theorem State.setCtrl_pix (v : Word) : (s.setCtrl v).pix = s.pix := rfl
@[simp] theorem State.setCtrl_pay (v : Word) : (s.setCtrl v).pay = s.pay := rfl
@[simp] theorem State.setCtrl_bit (v : Word) : (s.setCtrl v).bit = s.bit := rfl
@[simp] theorem State.setCtrl_inFlight (v : Word) : (s.setCtrl v).inFlight = s.inFlight := rfl
@[simp] theorem State.setCtrl_epoch (v : Word) : (s.setCtrl v).epoch = s.epoch := rfl
@[simp] theorem State.setCtrl_fillCount (v : Word) : (s.setCtrl v).fillCount = s.fillCount := rfl
@[simp] theorem State.setCtrl_hostOps (v : Word) : (s.setCtrl v).hostOps = s.hostOps := rfl
@[simp] theorem State.setCtrl_halted (v : Word) : (s.setCtrl v).halted = s.halted := rfl
@[simp] theorem State.setCtrl_turns (v : Word) : (s.setCtrl v).turns = s.turns := rfl
@[simp] theorem State.setCtrl_answers (v : Word) : (s.setCtrl v).answers = s.answers := rfl

/-! `State.clearDone` -/

@[simp] theorem State.clearDone_pixMax (v : Word) : (s.clearDone v).pixMax = s.pixMax := rfl
@[simp] theorem State.clearDone_payMax (v : Word) : (s.clearDone v).payMax = s.payMax := rfl
@[simp] theorem State.clearDone_irqen (v : Word) : (s.clearDone v).irqen = s.irqen := rfl
@[simp] theorem State.clearDone_fill (v : Word) : (s.clearDone v).fill = s.fill := rfl
@[simp] theorem State.clearDone_done (v : Word) : (s.clearDone v).done = (s.done && !v.getLsbD 1) := rfl
@[simp] theorem State.clearDone_errcode (v : Word) : (s.clearDone v).errcode = s.errcode := rfl
@[simp] theorem State.clearDone_pixcnt (v : Word) : (s.clearDone v).pixcnt = s.pixcnt := rfl
@[simp] theorem State.clearDone_paylen (v : Word) : (s.clearDone v).paylen = s.paylen := rfl
@[simp] theorem State.clearDone_bitlen (v : Word) : (s.clearDone v).bitlen = s.bitlen := rfl
@[simp] theorem State.clearDone_hdrval (v : Word) : (s.clearDone v).hdrval = s.hdrval := rfl
@[simp] theorem State.clearDone_pix (v : Word) : (s.clearDone v).pix = s.pix := rfl
@[simp] theorem State.clearDone_pay (v : Word) : (s.clearDone v).pay = s.pay := rfl
@[simp] theorem State.clearDone_bit (v : Word) : (s.clearDone v).bit = s.bit := rfl
@[simp] theorem State.clearDone_inFlight (v : Word) : (s.clearDone v).inFlight = s.inFlight := rfl
@[simp] theorem State.clearDone_epoch (v : Word) : (s.clearDone v).epoch = s.epoch := rfl
@[simp] theorem State.clearDone_fillCount (v : Word) : (s.clearDone v).fillCount = s.fillCount := rfl
@[simp] theorem State.clearDone_hostOps (v : Word) : (s.clearDone v).hostOps = s.hostOps := rfl
@[simp] theorem State.clearDone_halted (v : Word) : (s.clearDone v).halted = s.halted := rfl
@[simp] theorem State.clearDone_turns (v : Word) : (s.clearDone v).turns = s.turns := rfl
@[simp] theorem State.clearDone_answers (v : Word) : (s.clearDone v).answers = s.answers := rfl

/-! `State.accept` -/

@[simp] theorem State.accept_pixMax (w : Word) : (s.accept w).pixMax = s.pixMax := rfl
@[simp] theorem State.accept_payMax (w : Word) : (s.accept w).payMax = s.payMax := rfl
@[simp] theorem State.accept_irqen (w : Word) : (s.accept w).irqen = s.irqen := rfl
@[simp] theorem State.accept_fill (w : Word) : (s.accept w).fill = s.fill := rfl
@[simp] theorem State.accept_done (w : Word) : (s.accept w).done = false := rfl
@[simp] theorem State.accept_errcode (w : Word) : (s.accept w).errcode = .ok := rfl
@[simp] theorem State.accept_pixcnt (w : Word) : (s.accept w).pixcnt = s.pixcnt := rfl
@[simp] theorem State.accept_paylen (w : Word) : (s.accept w).paylen = s.paylen := rfl
@[simp] theorem State.accept_bitlen (w : Word) : (s.accept w).bitlen = s.bitlen := rfl
@[simp] theorem State.accept_hdrval (w : Word) : (s.accept w).hdrval = s.hdrval := rfl
@[simp] theorem State.accept_pix (w : Word) : (s.accept w).pix = s.pix := rfl
@[simp] theorem State.accept_pay (w : Word) : (s.accept w).pay = s.pay := rfl
@[simp] theorem State.accept_bit (w : Word) : (s.accept w).bit = s.bit := rfl
@[simp] theorem State.accept_inFlight (w : Word) : (s.accept w).inFlight = some ⟨w, s.fill⟩ := rfl
@[simp] theorem State.accept_epoch (w : Word) : (s.accept w).epoch = s.epoch := rfl
@[simp] theorem State.accept_fillCount (w : Word) : (s.accept w).fillCount = s.fillCount := rfl
@[simp] theorem State.accept_hostOps (w : Word) : (s.accept w).hostOps = s.hostOps := rfl
@[simp] theorem State.accept_halted (w : Word) : (s.accept w).halted = s.halted := rfl
@[simp] theorem State.accept_turns (w : Word) : (s.accept w).turns = s.turns := rfl
@[simp] theorem State.accept_answers (w : Word) : (s.accept w).answers = s.answers := rfl

/-! `State.complete` -/

@[simp] theorem State.complete_pixMax (c : ErrCode) : (s.complete c).pixMax = s.pixMax := rfl
@[simp] theorem State.complete_payMax (c : ErrCode) : (s.complete c).payMax = s.payMax := rfl
@[simp] theorem State.complete_irqen (c : ErrCode) : (s.complete c).irqen = s.irqen := rfl
@[simp] theorem State.complete_fill (c : ErrCode) : (s.complete c).fill = s.fill := rfl
@[simp] theorem State.complete_done (c : ErrCode) : (s.complete c).done = true := rfl
@[simp] theorem State.complete_errcode (c : ErrCode) : (s.complete c).errcode = c := rfl
@[simp] theorem State.complete_pixcnt (c : ErrCode) : (s.complete c).pixcnt = s.pixcnt := rfl
@[simp] theorem State.complete_paylen (c : ErrCode) : (s.complete c).paylen = s.paylen := rfl
@[simp] theorem State.complete_bitlen (c : ErrCode) : (s.complete c).bitlen = s.bitlen := rfl
@[simp] theorem State.complete_hdrval (c : ErrCode) : (s.complete c).hdrval = s.hdrval := rfl
@[simp] theorem State.complete_pix (c : ErrCode) : (s.complete c).pix = s.pix := rfl
@[simp] theorem State.complete_pay (c : ErrCode) : (s.complete c).pay = s.pay := rfl
@[simp] theorem State.complete_bit (c : ErrCode) : (s.complete c).bit = s.bit := rfl
@[simp] theorem State.complete_inFlight (c : ErrCode) : (s.complete c).inFlight = none := rfl
@[simp] theorem State.complete_epoch (c : ErrCode) : (s.complete c).epoch = s.epoch := rfl
@[simp] theorem State.complete_fillCount (c : ErrCode) : (s.complete c).fillCount = s.fillCount := rfl
@[simp] theorem State.complete_hostOps (c : ErrCode) : (s.complete c).hostOps = s.hostOps := rfl
@[simp] theorem State.complete_halted (c : ErrCode) : (s.complete c).halted = s.halted := rfl
@[simp] theorem State.complete_turns (c : ErrCode) : (s.complete c).turns = s.turns := rfl
@[simp] theorem State.complete_answers (c : ErrCode) : (s.complete c).answers = s.answers := rfl

/-! `State.usedFiller` -/

@[simp] theorem State.usedFiller_pixMax : (s.usedFiller).pixMax = s.pixMax := rfl
@[simp] theorem State.usedFiller_payMax : (s.usedFiller).payMax = s.payMax := rfl
@[simp] theorem State.usedFiller_irqen : (s.usedFiller).irqen = s.irqen := rfl
@[simp] theorem State.usedFiller_fill : (s.usedFiller).fill = s.fill := rfl
@[simp] theorem State.usedFiller_done : (s.usedFiller).done = s.done := rfl
@[simp] theorem State.usedFiller_errcode : (s.usedFiller).errcode = s.errcode := rfl
@[simp] theorem State.usedFiller_pixcnt : (s.usedFiller).pixcnt = s.pixcnt := rfl
@[simp] theorem State.usedFiller_paylen : (s.usedFiller).paylen = s.paylen := rfl
@[simp] theorem State.usedFiller_bitlen : (s.usedFiller).bitlen = s.bitlen := rfl
@[simp] theorem State.usedFiller_hdrval : (s.usedFiller).hdrval = s.hdrval := rfl
@[simp] theorem State.usedFiller_pix : (s.usedFiller).pix = s.pix := rfl
@[simp] theorem State.usedFiller_pay : (s.usedFiller).pay = s.pay := rfl
@[simp] theorem State.usedFiller_bit : (s.usedFiller).bit = s.bit := rfl
@[simp] theorem State.usedFiller_inFlight : (s.usedFiller).inFlight = s.inFlight := rfl
@[simp] theorem State.usedFiller_epoch : (s.usedFiller).epoch = s.epoch := rfl
@[simp] theorem State.usedFiller_fillCount : (s.usedFiller).fillCount = s.fillCount + s.curFill.toNat := rfl
@[simp] theorem State.usedFiller_hostOps : (s.usedFiller).hostOps = s.hostOps := rfl
@[simp] theorem State.usedFiller_halted : (s.usedFiller).halted = s.halted := rfl
@[simp] theorem State.usedFiller_turns : (s.usedFiller).turns = s.turns := rfl
@[simp] theorem State.usedFiller_answers : (s.usedFiller).answers = s.answers := rfl

/-! `State.popTurn` -/

@[simp] theorem State.popTurn_pixMax : (s.popTurn).pixMax = s.pixMax := rfl
@[simp] theorem State.popTurn_payMax : (s.popTurn).payMax = s.payMax := rfl
@[simp] theorem State.popTurn_irqen : (s.popTurn).irqen = s.irqen := rfl
@[simp] theorem State.popTurn_fill : (s.popTurn).fill = s.fill := rfl
@[simp] theorem State.popTurn_done : (s.popTurn).done = s.done := rfl
@[simp] theorem State.popTurn_errcode : (s.popTurn).errcode = s.errcode := rfl
@[simp] theorem State.popTurn_pixcnt : (s.popTurn).pixcnt = s.pixcnt := rfl
@[simp] theorem State.popTurn_paylen : (s.popTurn).paylen = s.paylen := rfl
@[simp] theorem State.popTurn_bitlen : (s.popTurn).bitlen = s.bitlen := rfl
@[simp] theorem State.popTurn_hdrval : (s.popTurn).hdrval = s.hdrval := rfl
@[simp] theorem State.popTurn_pix : (s.popTurn).pix = s.pix := rfl
@[simp] theorem State.popTurn_pay : (s.popTurn).pay = s.pay := rfl
@[simp] theorem State.popTurn_bit : (s.popTurn).bit = s.bit := rfl
@[simp] theorem State.popTurn_inFlight : (s.popTurn).inFlight = s.inFlight := rfl
@[simp] theorem State.popTurn_epoch : (s.popTurn).epoch = s.epoch := rfl
@[simp] theorem State.popTurn_fillCount : (s.popTurn).fillCount = s.fillCount := rfl
@[simp] theorem State.popTurn_hostOps : (s.popTurn).hostOps = s.hostOps := rfl
@[simp] theorem State.popTurn_halted : (s.popTurn).halted = s.halted := rfl
@[simp] theorem State.popTurn_turns : (s.popTurn).turns = s.turns.tail := rfl
@[simp] theorem State.popTurn_answers : (s.popTurn).answers = s.answers := rfl

/-! `State.answered` -/

@[simp] theorem State.answered_pixMax (l : List HostOp) (r : BusAnswer) : (s.answered l r).pixMax = s.pixMax := rfl
@[simp] theorem State.answered_payMax (l : List HostOp) (r : BusAnswer) : (s.answered l r).payMax = s.payMax := rfl
@[simp] theorem State.answered_irqen (l : List HostOp) (r : BusAnswer) : (s.answered l r).irqen = s.irqen := rfl
@[simp] theorem State.answered_fill (l : List HostOp) (r : BusAnswer) : (s.answered l r).fill = s.fill := rfl
@[simp] theorem State.answered_done (l : List HostOp) (r : BusAnswer) : (s.answered l r).done = s.done := rfl
@[simp] theorem State.answered_errcode (l : List HostOp) (r : BusAnswer) : (s.answered l r).errcode = s.errcode := rfl
@[simp] theorem State.answered_pixcnt (l : List HostOp) (r : BusAnswer) : (s.answered l r).pixcnt = s.pixcnt := rfl
@[simp] theorem State.answered_paylen (l : List HostOp) (r : BusAnswer) : (s.answered l r).paylen = s.paylen := rfl
@[simp] theorem State.answered_bitlen (l : List HostOp) (r : BusAnswer) : (s.answered l r).bitlen = s.bitlen := rfl
@[simp] theorem State.answered_hdrval (l : List HostOp) (r : BusAnswer) : (s.answered l r).hdrval = s.hdrval := rfl
@[simp] theorem State.answered_pix (l : List HostOp) (r : BusAnswer) : (s.answered l r).pix = s.pix := rfl
@[simp] theorem State.answered_pay (l : List HostOp) (r : BusAnswer) : (s.answered l r).pay = s.pay := rfl
@[simp] theorem State.answered_bit (l : List HostOp) (r : BusAnswer) : (s.answered l r).bit = s.bit := rfl
@[simp] theorem State.answered_inFlight (l : List HostOp) (r : BusAnswer) : (s.answered l r).inFlight = s.inFlight := rfl
@[simp] theorem State.answered_epoch (l : List HostOp) (r : BusAnswer) : (s.answered l r).epoch = s.epoch := rfl
@[simp] theorem State.answered_fillCount (l : List HostOp) (r : BusAnswer) : (s.answered l r).fillCount = s.fillCount := rfl
@[simp] theorem State.answered_hostOps (l : List HostOp) (r : BusAnswer) : (s.answered l r).hostOps = l := rfl
@[simp] theorem State.answered_halted (l : List HostOp) (r : BusAnswer) : (s.answered l r).halted = s.halted := rfl
@[simp] theorem State.answered_turns (l : List HostOp) (r : BusAnswer) : (s.answered l r).turns = s.turns := rfl
@[simp] theorem State.answered_answers (l : List HostOp) (r : BusAnswer) : (s.answered l r).answers = r :: s.answers := rfl

/-! `State.halt` -/

@[simp] theorem State.halt_pixMax (l : List HostOp) : (s.halt l).pixMax = s.pixMax := rfl
@[simp] theorem State.halt_payMax (l : List HostOp) : (s.halt l).payMax = s.payMax := rfl
@[simp] theorem State.halt_irqen (l : List HostOp) : (s.halt l).irqen = s.irqen := rfl
@[simp] theorem State.halt_fill (l : List HostOp) : (s.halt l).fill = s.fill := rfl
@[simp] theorem State.halt_done (l : List HostOp) : (s.halt l).done = s.done := rfl
@[simp] theorem State.halt_errcode (l : List HostOp) : (s.halt l).errcode = s.errcode := rfl
@[simp] theorem State.halt_pixcnt (l : List HostOp) : (s.halt l).pixcnt = s.pixcnt := rfl
@[simp] theorem State.halt_paylen (l : List HostOp) : (s.halt l).paylen = s.paylen := rfl
@[simp] theorem State.halt_bitlen (l : List HostOp) : (s.halt l).bitlen = s.bitlen := rfl
@[simp] theorem State.halt_hdrval (l : List HostOp) : (s.halt l).hdrval = s.hdrval := rfl
@[simp] theorem State.halt_pix (l : List HostOp) : (s.halt l).pix = s.pix := rfl
@[simp] theorem State.halt_pay (l : List HostOp) : (s.halt l).pay = s.pay := rfl
@[simp] theorem State.halt_bit (l : List HostOp) : (s.halt l).bit = s.bit := rfl
@[simp] theorem State.halt_inFlight (l : List HostOp) : (s.halt l).inFlight = s.inFlight := rfl
@[simp] theorem State.halt_epoch (l : List HostOp) : (s.halt l).epoch = s.epoch := rfl
@[simp] theorem State.halt_fillCount (l : List HostOp) : (s.halt l).fillCount = s.fillCount := rfl
@[simp] theorem State.halt_hostOps (l : List HostOp) : (s.halt l).hostOps = l := rfl
@[simp] theorem State.halt_halted (l : List HostOp) : (s.halt l).halted = true := rfl
@[simp] theorem State.halt_turns (l : List HostOp) : (s.halt l).turns = s.turns := rfl
@[simp] theorem State.halt_answers (l : List HostOp) : (s.halt l).answers = s.answers := rfl

/-! `State.resetStep` -/

@[simp] theorem State.resetStep_pixMax : (s.resetStep).pixMax = s.pixMax := rfl
@[simp] theorem State.resetStep_payMax : (s.resetStep).payMax = s.payMax := rfl
@[simp] theorem State.resetStep_irqen : (s.resetStep).irqen = false := rfl
@[simp] theorem State.resetStep_fill : (s.resetStep).fill = false := rfl
@[simp] theorem State.resetStep_done : (s.resetStep).done = false := rfl
@[simp] theorem State.resetStep_errcode : (s.resetStep).errcode = .ok := rfl
@[simp] theorem State.resetStep_pixcnt : (s.resetStep).pixcnt = 0#32 := rfl
@[simp] theorem State.resetStep_paylen : (s.resetStep).paylen = 0#32 := rfl
@[simp] theorem State.resetStep_bitlen : (s.resetStep).bitlen = 0#32 := rfl
@[simp] theorem State.resetStep_hdrval : (s.resetStep).hdrval = 0#32 := rfl
@[simp] theorem State.resetStep_pix : (s.resetStep).pix = [] := rfl
@[simp] theorem State.resetStep_pay : (s.resetStep).pay = [] := rfl
@[simp] theorem State.resetStep_bit : (s.resetStep).bit = [] := rfl
@[simp] theorem State.resetStep_inFlight : (s.resetStep).inFlight = none := rfl
@[simp] theorem State.resetStep_epoch : (s.resetStep).epoch = s.epoch + 1 := rfl
@[simp] theorem State.resetStep_fillCount : (s.resetStep).fillCount = s.fillCount := rfl
@[simp] theorem State.resetStep_hostOps : (s.resetStep).hostOps = s.hostOps := rfl
@[simp] theorem State.resetStep_halted : (s.resetStep).halted = s.halted := rfl
@[simp] theorem State.resetStep_turns : (s.resetStep).turns = s.turns := rfl
@[simp] theorem State.resetStep_answers : (s.resetStep).answers = s.answers := rfl

/-! The derived reads that an update leaves alone. -/

@[simp] theorem State.complete_busy (c : ErrCode) : (s.complete c).busy = false := rfl
@[simp] theorem State.accept_busy (w : Word) : (s.accept w).busy = true := rfl
@[simp] theorem State.resetStep_busy : s.resetStep.busy = false := rfl
@[simp] theorem State.popTurn_busy : s.popTurn.busy = s.busy := rfl
@[simp] theorem State.accept_curFill (w : Word) : (s.accept w).curFill = s.fill := rfl
@[simp] theorem State.popTurn_curFill : s.popTurn.curFill = s.curFill := rfl

end Sys2Proof.Machine
end

