-- ==== Sys2Proof/Laws/Ops.lean ====
section
/-! SUPPORT. The laws of the shared operations: cells after a write, slices, what a completion answers. -/

namespace Sys2Proof.Machine

variable (s : State)

/-! Cells after a write: the written value inside, the old one outside; the other memories stay. -/

theorem State.pixCell_writePix (n : Nat) (vs : List Byte) (i : Nat) :
    (s.writePix n vs).pixCell i = if n ≤ i then vs.getD (i - n) (s.pixCell i) else s.pixCell i := by
  simp only [State.pixCell, State.writePix_pix, State.writePix_epoch, Memory.get_write, List.getD_eq_getElem?_getD]
  by_cases h1 : n ≤ i
  · by_cases h2 : i < n + vs.length
    · have h3 : i - n < vs.length := by omega
      simp [h1, h2, h3]
    · have h3 : vs.length ≤ i - n := by omega
      simp [h1, h2, h3]
  · simp [h1]

theorem State.payCell_writePay (n : Nat) (vs : List Byte) (i : Nat) :
    (s.writePay n vs).payCell i = if n ≤ i then vs.getD (i - n) (s.payCell i) else s.payCell i := by
  simp only [State.payCell, State.writePay_pay, State.writePay_epoch, Memory.get_write, List.getD_eq_getElem?_getD]
  by_cases h1 : n ≤ i
  · by_cases h2 : i < n + vs.length
    · have h3 : i - n < vs.length := by omega
      simp [h1, h2, h3]
    · have h3 : vs.length ≤ i - n := by omega
      simp [h1, h2, h3]
  · simp [h1]

theorem State.bitCell_writeBit (n : Nat) (vs : List Bit) (i : Nat) :
    (s.writeBit n vs).bitCell i = if n ≤ i then vs.getD (i - n) (s.bitCell i) else s.bitCell i := by
  simp only [State.bitCell, State.writeBit_bit, State.writeBit_epoch, Memory.get_write, List.getD_eq_getElem?_getD]
  by_cases h1 : n ≤ i
  · by_cases h2 : i < n + vs.length
    · have h3 : i - n < vs.length := by omega
      simp [h1, h2, h3]
    · have h3 : vs.length ≤ i - n := by omega
      simp [h1, h2, h3]
  · simp [h1]

/-! Cells after an update of something else. -/

@[simp] theorem State.complete_pixCell (c : ErrCode) (i : Nat) : (s.complete c).pixCell i = s.pixCell i := rfl
@[simp] theorem State.complete_payCell (c : ErrCode) (i : Nat) : (s.complete c).payCell i = s.payCell i := rfl
@[simp] theorem State.complete_bitCell (c : ErrCode) (i : Nat) : (s.complete c).bitCell i = s.bitCell i := rfl
@[simp] theorem State.accept_pixCell (w : Word) (i : Nat) : (s.accept w).pixCell i = s.pixCell i := rfl
@[simp] theorem State.accept_payCell (w : Word) (i : Nat) : (s.accept w).payCell i = s.payCell i := rfl
@[simp] theorem State.accept_bitCell (w : Word) (i : Nat) : (s.accept w).bitCell i = s.bitCell i := rfl
@[simp] theorem State.setPixcnt_pixCell (v : Word) (i : Nat) : (s.setPixcnt v).pixCell i = s.pixCell i := rfl
@[simp] theorem State.setPixcnt_payCell (v : Word) (i : Nat) : (s.setPixcnt v).payCell i = s.payCell i := rfl
@[simp] theorem State.setPixcnt_bitCell (v : Word) (i : Nat) : (s.setPixcnt v).bitCell i = s.bitCell i := rfl
@[simp] theorem State.setPaylen_pixCell (v : Word) (i : Nat) : (s.setPaylen v).pixCell i = s.pixCell i := rfl
@[simp] theorem State.setPaylen_payCell (v : Word) (i : Nat) : (s.setPaylen v).payCell i = s.payCell i := rfl
@[simp] theorem State.setPaylen_bitCell (v : Word) (i : Nat) : (s.setPaylen v).bitCell i = s.bitCell i := rfl
@[simp] theorem State.setBitlen_pixCell (v : Word) (i : Nat) : (s.setBitlen v).pixCell i = s.pixCell i := rfl
@[simp] theorem State.setBitlen_payCell (v : Word) (i : Nat) : (s.setBitlen v).payCell i = s.payCell i := rfl
@[simp] theorem State.setBitlen_bitCell (v : Word) (i : Nat) : (s.setBitlen v).bitCell i = s.bitCell i := rfl
@[simp] theorem State.setHdrval_pixCell (v : Word) (i : Nat) : (s.setHdrval v).pixCell i = s.pixCell i := rfl
@[simp] theorem State.setHdrval_payCell (v : Word) (i : Nat) : (s.setHdrval v).payCell i = s.payCell i := rfl
@[simp] theorem State.setHdrval_bitCell (v : Word) (i : Nat) : (s.setHdrval v).bitCell i = s.bitCell i := rfl
@[simp] theorem State.usedFiller_pixCell (i : Nat) : (s.usedFiller).pixCell i = s.pixCell i := rfl
@[simp] theorem State.usedFiller_payCell (i : Nat) : (s.usedFiller).payCell i = s.payCell i := rfl
@[simp] theorem State.usedFiller_bitCell (i : Nat) : (s.usedFiller).bitCell i = s.bitCell i := rfl
@[simp] theorem State.popTurn_pixCell (i : Nat) : (s.popTurn).pixCell i = s.pixCell i := rfl
@[simp] theorem State.popTurn_payCell (i : Nat) : (s.popTurn).payCell i = s.payCell i := rfl
@[simp] theorem State.popTurn_bitCell (i : Nat) : (s.popTurn).bitCell i = s.bitCell i := rfl
@[simp] theorem State.writePix_payCell (n : Nat) (vs : List Byte) (i : Nat) : (s.writePix n vs).payCell i = s.payCell i := rfl
@[simp] theorem State.writePix_bitCell (n : Nat) (vs : List Byte) (i : Nat) : (s.writePix n vs).bitCell i = s.bitCell i := rfl
@[simp] theorem State.writePay_pixCell (n : Nat) (vs : List Byte) (i : Nat) : (s.writePay n vs).pixCell i = s.pixCell i := rfl
@[simp] theorem State.writePay_bitCell (n : Nat) (vs : List Byte) (i : Nat) : (s.writePay n vs).bitCell i = s.bitCell i := rfl
@[simp] theorem State.writeBit_pixCell (n : Nat) (vs : List Bit) (i : Nat) : (s.writeBit n vs).pixCell i = s.pixCell i := rfl
@[simp] theorem State.writeBit_payCell (n : Nat) (vs : List Bit) (i : Nat) : (s.writeBit n vs).payCell i = s.payCell i := rfl

/-- A cell of PIX depends on the memory PIX and the reset draws alone. -/
theorem State.pixCell_congr {s t : State} (h : t.pix = s.pix) (he : t.epoch = s.epoch) (i : Nat) :
    t.pixCell i = s.pixCell i := by simp only [State.pixCell, h, he]

theorem State.payCell_congr {s t : State} (h : t.pay = s.pay) (he : t.epoch = s.epoch) (i : Nat) :
    t.payCell i = s.payCell i := by simp only [State.payCell, h, he]

theorem State.bitCell_congr {s t : State} (h : t.bit = s.bit) (he : t.epoch = s.epoch) (i : Nat) :
    t.bitCell i = s.bitCell i := by simp only [State.bitCell, h, he]

/-! Slices. -/

@[simp] theorem State.pixTo_length (n : Nat) : (s.pixTo n).length = n := by simp [State.pixTo]
@[simp] theorem State.payTo_length (n : Nat) : (s.payTo n).length = n := by simp [State.payTo]
@[simp] theorem State.bitTo_length (n : Nat) : (s.bitTo n).length = n := by simp [State.bitTo]

@[simp] theorem State.pixTo_getElem (n i : Nat) (h : i < (s.pixTo n).length) : (s.pixTo n)[i] = s.pixCell i := by
  simp [State.pixTo]
@[simp] theorem State.payTo_getElem (n i : Nat) (h : i < (s.payTo n).length) : (s.payTo n)[i] = s.payCell i := by
  simp [State.payTo]
@[simp] theorem State.bitTo_getElem (n i : Nat) (h : i < (s.bitTo n).length) : (s.bitTo n)[i] = s.bitCell i := by
  simp [State.bitTo]

/-- The first `k` elements of a slice are the shorter slice. -/
theorem State.pixTo_take {k n : Nat} (h : k ≤ n) : (s.pixTo n).take k = s.pixTo k := by
  rw [State.pixTo, State.pixTo, ← List.map_take, List.take_range, Nat.min_eq_left h]

theorem State.bitTo_take {k n : Nat} (h : k ≤ n) : (s.bitTo n).take k = s.bitTo k := by
  rw [State.bitTo, State.bitTo, ← List.map_take, List.take_range, Nat.min_eq_left h]

/-- Reading back the first cells of a write gives the written values. -/
theorem State.bitTo_writeBit {vs : List Bit} {n : Nat} (h : vs.length = n) : (s.writeBit 0 vs).bitTo n = vs := by
  subst h
  apply List.ext_getElem
  · simp
  · intro i h1 h2
    rw [State.bitTo_getElem, State.bitCell_writeBit]
    simp [h2]

theorem State.payTo_writePay {vs : List Byte} {n : Nat} (h : vs.length = n) : (s.writePay 0 vs).payTo n = vs := by
  subst h
  apply List.ext_getElem
  · simp
  · intro i h1 h2
    rw [State.payTo_getElem, State.payCell_writePay]
    simp [h2]

theorem State.pixTo_writePix {vs : List Byte} {n : Nat} (h : vs.length = n) : (s.writePix 0 vs).pixTo n = vs := by
  subst h
  apply List.ext_getElem
  · simp
  · intro i h1 h2
    rw [State.pixTo_getElem, State.pixCell_writePix]
    simp [h2]

theorem State.pixTo_congr {s t : State} {n : Nat} (h : ∀ i, i < n → t.pixCell i = s.pixCell i) : t.pixTo n = s.pixTo n := by
  apply List.ext_getElem
  · simp
  · intro i h1 h2
    rw [State.pixTo_getElem, State.pixTo_getElem]
    exact h i (by simpa using h1)

@[simp] theorem zeros_length (n : Nat) : (zeros n).length = n := by simp [zeros]
@[simp] theorem drawFill_length (k n : Nat) : (drawFill k n).length = n := by simp [drawFill]

@[simp] theorem State.filler_length (n : Nat) : (s.filler n).length = n := by
  unfold State.filler; split <;> simp

/-! Completions. -/

/-- An error completion answers the next state in which only STATUS has changed (R211). -/
theorem raise_eq (c : ErrCode) : raise c s = .next (s.complete c) := rfl

/-- A successful completion answers the committed state with STATUS showing it (R210). -/
theorem commit_eq : commit s = .next (s.complete .ok) := rfl

theorem raise_next {c : ErrCode} {s t : State} : raise c s = .next t ↔ t = s.complete c := by
  rw [raise_eq]; constructor
  · intro h; injection h with h; exact h.symm
  · intro h; rw [h]

theorem commit_next {s t : State} : commit s = .next t ↔ t = s.complete .ok := by
  rw [commit_eq]; constructor
  · intro h; injection h with h; exact h.symm
  · intro h; rw [h]

end Sys2Proof.Machine
end

