-- ==== Sys2Proof/Laws/Bus.lean ====
section
/-! SUPPORT. The laws of the bus: what a decided transaction reaches, and what it can do. -/

namespace Sys2Proof.Machine

variable {s t : State}

/-- A transaction that is not answered BUSERR reaches a mapped target, in a legal shape, not locked out, with the
right to it (R55). -/
theorem State.access_some {a : Nat} {n : Width} {wr : Bool} {x : Target} (h : s.access a n wr = some x) :
    s.target a = some x ∧ s.legalShape a n x = true ∧ (s.busy = true → x.locked = false) ∧
      (wr = true → x.writable = true) := by
  unfold State.access at h
  split at h
  · simp at h
  · rename_i y hy
    split at h
    · simp at h
    · split at h
      · simp at h
      · split at h
        · simp at h
        · rename_i h1 h2 h3
          obtain rfl : y = x := by simpa using h
          refine ⟨hy, by simpa using h1, ?_, ?_⟩
          · intro hb; simpa [hb] using h2
          · intro hw; simpa [hw] using h3

/-- A transaction with no such target is answered BUSERR and changes nothing (R58). -/
theorem State.transact_of_access_none {x : BusTxn} (h : ∀ wr, s.access x.addr.toNat x.width wr = none) :
    s.transact x = (s, .busErr) := by
  cases x with
  | read a n => simp only [State.transact, State.busRead]; rw [show s.access a.toNat n false = none from h false]
  | write a n v => simp only [State.transact, State.busWrite]; rw [show s.access a.toNat n true = none from h true]

theorem State.access_none_of_target {a : Nat} (h : s.target a = none) (n : Width) (wr : Bool) :
    s.access a n wr = none := by simp [State.access, h]

/-- What a write can do: nothing at all, or the write of one CSR, or the write of existing cells of one memory. -/
theorem State.busWrite_cases (s : State) (a : Addr) (n : Width) (v : Word) :
    s.busWrite a n v = (s, .busErr) ∨
    (∃ r, s.access a.toNat n true = some (.csr r) ∧ s.busWrite a n v = (s.csrWrite v r, .ok)) ∨
    (∃ w i, s.access a.toNat n true = some (.cell w i) ∧ s.busWrite a n v = (s.windowWrite w i n v, .ok)) := by
  unfold State.busWrite
  split
  · exact .inl rfl
  · exact .inr (.inl ⟨_, ‹_›, rfl⟩)
  · exact .inr (.inr ⟨_, _, ‹_›, rfl⟩)

/-- A transaction answers BUSERR only with no effect (R58). -/
theorem State.transact_busErr {x : BusTxn} (h : (s.transact x).2 = .busErr) : (s.transact x).1 = s := by
  cases x with
  | read a n => rfl
  | write a n v =>
    rcases State.busWrite_cases s a n v with h1 | ⟨r, -, h1⟩ | ⟨w, i, -, h1⟩
    · simp [State.transact, h1]
    · simp [State.transact, h1] at h
    · simp [State.transact, h1] at h

/-- A CSR is reached only through its own offset, a whole word at a time (R20, R61). -/
theorem State.access_csr {a : Nat} {n : Width} {wr : Bool} {r : Csr} (h : s.access a n wr = some (.csr r)) :
    a = r.offset ∧ n = .word := by
  obtain ⟨h1, h2, -, -⟩ := State.access_some h
  simp only [State.legalShape, Bool.and_eq_true, decide_eq_true_eq] at h2
  obtain ⟨h2, h3⟩ := h2
  refine ⟨?_, h2⟩
  unfold State.target at h1
  split at h1
  · rw [show 4 * (a / 4) = a by omega] at h1
    unfold csrAt at h1
    split at h1
    all_goals simp at h1
    all_goals (subst h1; rfl)
  · split at h1
    · split at h1 <;> simp at h1
    · simp at h1

/-- A cell is reached at its own address, aligned, with all the cells of the access existing (R52, R59). -/
theorem State.access_cell {a : Nat} {n : Width} {wr : Bool} {w : Window} {i : Nat}
    (h : s.access a n wr = some (.cell w i)) :
    a = w.base + i ∧ a % n.bytes = 0 ∧ i + n.bytes ≤ s.windowSize w ∧ s.busy = false := by
  obtain ⟨h1, h2, h3, -⟩ := State.access_some h
  simp only [State.legalShape, Bool.and_eq_true, decide_eq_true_eq] at h2
  refine ⟨?_, h2.1, h2.2, ?_⟩
  · unfold State.target at h1
    split at h1
    · unfold csrAt at h1; split at h1 <;> simp at h1
    · split at h1
      · rename_i w' hw
        split at h1
        · simp only [Option.some.injEq, Target.cell.injEq] at h1
          obtain ⟨rfl, rfl⟩ := h1
          unfold windowOf at hw
          split at hw
          · injection hw with hw; subst hw; omega
          · split at hw
            · injection hw with hw; subst hw; omega
            · split at hw
              · injection hw with hw; subst hw; omega
              · simp at hw
        · simp at h1
      · simp at h1
  · cases hb : s.busy with
    | false => rfl
    | true => have := h3 hb; simp [Target.locked] at this

/-- The access of a CSR at its own offset, a word wide, is decided by lockout and rights alone. -/
theorem State.access_csr_word (s : State) (r : Csr) (wr : Bool) :
    s.access r.addr.toNat .word wr = if s.busy && (Target.csr r).locked then none
      else if wr && !(Target.csr r).writable then none else some (.csr r) := by
  have h : s.target r.addr.toNat = some (.csr r) := by cases r <;> rfl
  have h2 : s.legalShape r.addr.toNat .word (.csr r) = true := by cases r <;> rfl
  simp [State.access, h, h2]

/-- The access of existing cells, aligned, is decided by the lockout alone. -/
theorem State.access_window (hp : paramsWf s.pixMax s.payMax = true) {w : Window} {i a : Nat} {n : Width}
    (ha : a = w.base + i) (h1 : a % n.bytes = 0) (h2 : i + n.bytes ≤ s.windowSize w) (wr : Bool) :
    s.access a n wr = if s.busy then none else some (.cell w i) := by
  obtain ⟨-, hp1, -, hp2⟩ := paramsWf_iff.mp hp
  have hn : 1 ≤ n.bytes := by cases n <;> decide
  have hc := csrEnd_eq
  have hs := windowSpan_eq
  have b1 := pixw_base
  have b2 := payw_base
  have b3 := bitw_base
  have ht : s.target a = some (.cell w i) := by
    have hw : windowOf a = some w := by
      unfold windowOf
      cases w with
      | pixw => rw [windowSize_pixw] at h2; rw [if_pos (by omega)]
      | payw => rw [windowSize_payw] at h2; rw [if_neg (by omega), if_pos (by omega)]
      | bitw => rw [windowSize_bitw] at h2; rw [if_neg (by omega), if_neg (by omega), if_pos (by omega)]
    have ha' : ¬ a < Config.csrEnd := by cases w <;> omega
    rw [State.target, if_neg ha', hw]
    simp only [show a - w.base = i by omega]
    rw [if_pos (by omega)]
  have hl : s.legalShape a n (.cell w i) = true := by simp [State.legalShape, h1, h2]
  simp [State.access, ht, hl, Target.locked, Target.writable]

@[simp] theorem dataBytes_length (n : Width) (v : Word) : (dataBytes n v).length = n.bytes := by
  cases n <;> rfl

/-- Byte `k` of the data of a write. -/
theorem dataBytes_getElem (n : Width) (v : Word) (k : Nat) (h : k < (dataBytes n v).length) :
    (dataBytes n v)[k] = v.extractLsb' (8 * k) 8 := by
  simp only [dataBytes, List.getElem_take]
  exact wordBytes_getElem v k _

/-! What a window write does to each field but its own memory: nothing. -/

@[simp] theorem State.windowWrite_inFlight (w : Window) (i : Nat) (n : Width) (v : Word) :
    (s.windowWrite w i n v).inFlight = s.inFlight := by cases w <;> rfl
@[simp] theorem State.windowWrite_done (w : Window) (i : Nat) (n : Width) (v : Word) :
    (s.windowWrite w i n v).done = s.done := by cases w <;> rfl
@[simp] theorem State.windowWrite_errcode (w : Window) (i : Nat) (n : Width) (v : Word) :
    (s.windowWrite w i n v).errcode = s.errcode := by cases w <;> rfl
@[simp] theorem State.windowWrite_pixMax (w : Window) (i : Nat) (n : Width) (v : Word) :
    (s.windowWrite w i n v).pixMax = s.pixMax := by cases w <;> rfl
@[simp] theorem State.windowWrite_payMax (w : Window) (i : Nat) (n : Width) (v : Word) :
    (s.windowWrite w i n v).payMax = s.payMax := by cases w <;> rfl

@[simp] theorem State.windowWrite_halted (w : Window) (i : Nat) (n : Width) (v : Word) :
    (s.windowWrite w i n v).halted = s.halted := by cases w <;> rfl

/-- No transaction halts the host: only `halt` does (R89). -/
@[simp] theorem State.transact_halted (x : BusTxn) : (s.transact x).1.halted = s.halted := by
  cases x with
  | read a n => rfl
  | write a n v =>
    rcases State.busWrite_cases s a n v with h1 | ⟨r, -, h1⟩ | ⟨w, i, -, h1⟩
    · simp [State.transact, h1]
    · simp only [State.transact, h1]
      cases r <;> rfl
    · simp [State.transact, h1]

/-- A transaction while a command is in flight leaves it in flight (R60). -/
theorem State.transact_inFlight_of_busy (hb : s.busy = true) (x : BusTxn) : (s.transact x).1.inFlight = s.inFlight := by
  cases x with
  | read a n => rfl
  | write a n v =>
    rcases State.busWrite_cases s a n v with h1 | ⟨r, h, h1⟩ | ⟨w, i, -, h1⟩
    · simp [State.transact, h1]
    · have := (State.access_some h).2.2.1 hb
      simp only [State.transact, h1]
      cases r <;> first | rfl | simp [Target.locked] at this
    · simp [State.transact, h1]

end Sys2Proof.Machine
end

