-- ==== Sys2Proof/Laws/Exec.lean ====
section
/-! SUPPORT. What each command's completion can answer: one inversion lemma a command, and the shape they share. -/

namespace Sys2Proof.Machine

variable {s t : State}

theorem execBytesToBits_cases (h : execBytesToBits s = .next t) :
    (t = s.complete .lengthRange ∧ (s.opP > s.payMax ∨ 8 * s.opP > s.bitMax)) ∨
    (s.opP ≤ s.payMax ∧ 8 * s.opP ≤ s.bitMax ∧
      t = ((s.writeBit 0 (bytesToBits (s.payTo s.opP))).setBitlen (BitVec.ofNat 32 (8 * s.opP))).complete .ok) := by
  unfold execBytesToBits at h
  split at h
  · exact .inl ⟨raise_next.mp h, .inl ‹_›⟩
  · split at h
    · exact .inl ⟨raise_next.mp h, .inr ‹_›⟩
    · exact .inr ⟨by omega, by omega, commit_next.mp h⟩

theorem execBitsToBytes_cases (h : execBitsToBytes s = .next t) :
    (t = s.complete .lengthRange ∧ (s.opB > s.bitMax ∨ s.opB / 8 > s.payMax)) ∨
    (t = s.complete .malformedLength ∧ s.opB % 8 ≠ 0) ∨
    (s.opB ≤ s.bitMax ∧ s.opB % 8 = 0 ∧ s.opB / 8 ≤ s.payMax ∧
      t = ((s.writePay 0 (packBits (s.bitTo s.opB))).setPaylen (BitVec.ofNat 32 (s.opB / 8))).complete .ok) := by
  unfold execBitsToBytes at h
  split at h
  · exact .inl ⟨raise_next.mp h, .inl ‹_›⟩
  · split at h
    · exact .inr (.inl ⟨raise_next.mp h, ‹_›⟩)
    · split at h
      · exact .inl ⟨raise_next.mp h, .inr ‹_›⟩
      · exact .inr (.inr ⟨by omega, by omega, by omega, commit_next.mp h⟩)

theorem execEncodeHeader_cases (h : execEncodeHeader s = .next t) :
    t = ((s.writeBit 0 (encodeHeader s.hdrval)).setBitlen (BitVec.ofNat 32 Config.hdrBits)).complete .ok :=
  commit_next.mp h

theorem execDecodeHeader_cases (h : execDecodeHeader s = .next t) :
    (t = s.complete .lengthRange ∧ s.opB > s.bitMax) ∨ (t = s.complete .headerCorrupt ∧ s.opB < Config.hdrBits) ∨
    (s.opB ≤ s.bitMax ∧ Config.hdrBits ≤ s.opB ∧
      t = (s.setHdrval (headerValue (s.bitTo Config.hdrBits))).complete .ok) := by
  unfold execDecodeHeader at h
  split at h
  · exact .inl ⟨raise_next.mp h, ‹_›⟩
  · split at h
    · exact .inr (.inl ⟨raise_next.mp h, ‹_›⟩)
    · exact .inr (.inr ⟨by omega, by omega, commit_next.mp h⟩)

theorem execFrame_cases (h : execFrame s = .next t) :
    (t = s.complete .lengthRange ∧ (s.opB > s.bitMax ∨ s.opN > s.pixMax)) ∨
    (t = s.complete .capacityExceeded ∧ s.opB + Config.hdrBits > s.opN) ∨
    (s.opB ≤ s.bitMax ∧ s.opN ≤ s.pixMax ∧ s.opB + Config.hdrBits ≤ s.opN ∧
      t = ((((s.writeBit 0 (frameBits (s.bitTo s.opB) (s.filler (s.opN - Config.hdrBits - s.opB)))).setBitlen
        s.pixcnt).setHdrval s.bitlen).usedFiller).complete .ok) := by
  unfold execFrame at h
  split at h
  · exact .inl ⟨raise_next.mp h, .inl ‹_›⟩
  · split at h
    · exact .inl ⟨raise_next.mp h, .inr ‹_›⟩
    · split at h
      · exact .inr (.inl ⟨raise_next.mp h, ‹_›⟩)
      · exact .inr (.inr ⟨by omega, by omega, by omega, commit_next.mp h⟩)

theorem execUnframe_cases (h : execUnframe s = .next t) :
    (t = s.complete .lengthRange ∧ s.opB > s.bitMax) ∨ (t = s.complete .headerCorrupt ∧ s.opB < Config.hdrBits) ∨
    (t = s.complete .truncatedPayload ∧ s.bitHeader.toNat + Config.hdrBits > s.opB) ∨
    (s.opB ≤ s.bitMax ∧ s.bitHeader.toNat + Config.hdrBits ≤ s.opB ∧
      t = (((s.writeBit 0 (framePayload (s.bitTo s.opB) s.bitHeader.toNat)).setBitlen s.bitHeader).setHdrval
        s.bitHeader).complete .ok) := by
  unfold execUnframe at h
  split at h
  · exact .inl ⟨raise_next.mp h, ‹_›⟩
  · split at h
    · exact .inr (.inl ⟨raise_next.mp h, ‹_›⟩)
    · split at h
      · exact .inr (.inr (.inl ⟨raise_next.mp h, ‹_›⟩))
      · exact .inr (.inr (.inr ⟨by omega, by omega, commit_next.mp h⟩))

theorem guardRejects_iff (b n : Nat) : guardRejects b n = true ↔ b + Config.hdrBits ≥ n := by simp [guardRejects]

theorem execCheck_cases (h : execCheck s = .next t) :
    (t = s.complete .lengthRange ∧ (s.opB > s.bitMax ∨ s.opN > s.pixMax)) ∨
    (t = s.complete .capacityExceeded ∧ s.opB + Config.hdrBits ≥ s.opN) ∨
    (s.opB ≤ s.bitMax ∧ s.opN ≤ s.pixMax ∧ s.opB + Config.hdrBits < s.opN ∧ t = s.complete .ok) := by
  unfold execCheck at h
  simp only [guardRejects_iff] at h
  split at h
  · exact .inl ⟨raise_next.mp h, .inl ‹_›⟩
  · split at h
    · exact .inl ⟨raise_next.mp h, .inr ‹_›⟩
    · split at h
      · exact .inr (.inl ⟨raise_next.mp h, ‹_›⟩)
      · exact .inr (.inr ⟨by omega, by omega, by omega, commit_next.mp h⟩)

theorem execEmbed_cases (h : execEmbed s = .next t) :
    (t = s.complete .lengthRange ∧ (s.opB > s.bitMax ∨ s.opN > s.pixMax)) ∨
    (t = s.complete .lengthMismatch ∧ s.opB ≠ s.opN) ∨
    (s.opN ≤ s.pixMax ∧ s.opB = s.opN ∧ t = (s.writePix 0 (embed (s.pixTo s.opN) (s.bitTo s.opN))).complete .ok) := by
  unfold execEmbed at h
  split at h
  · exact .inl ⟨raise_next.mp h, .inl ‹_›⟩
  · split at h
    · exact .inl ⟨raise_next.mp h, .inr ‹_›⟩
    · split at h
      · exact .inr (.inl ⟨raise_next.mp h, ‹_›⟩)
      · exact .inr (.inr ⟨by omega, by omega, commit_next.mp h⟩)

theorem execExtract_cases (h : execExtract s = .next t) :
    (t = s.complete .lengthRange ∧ s.opN > s.pixMax) ∨
    (s.opN ≤ s.pixMax ∧ t = ((s.writeBit 0 (extract (s.pixTo s.opN))).setBitlen s.pixcnt).complete .ok) := by
  unfold execExtract at h
  split at h
  · exact .inl ⟨raise_next.mp h, ‹_›⟩
  · exact .inr ⟨by omega, commit_next.mp h⟩

theorem execEncode_cases (h : execEncode s = .next t) :
    (t = s.complete .lengthRange ∧ (s.opP > s.payMax ∨ s.opN > s.pixMax)) ∨
    (t = s.complete .capacityExceeded ∧ 8 * s.opP + Config.hdrBits ≥ s.opN) ∨
    (s.opP ≤ s.payMax ∧ s.opN ≤ s.pixMax ∧ 8 * s.opP + Config.hdrBits < s.opN ∧
      t = (((((s.writePix 0 (embed (s.pixTo s.opN) s.encodedFrame)).writeBit 0 s.encodedFrame).setBitlen
        s.pixcnt).setHdrval (BitVec.ofNat 32 (8 * s.opP))).usedFiller).complete .ok) := by
  unfold execEncode at h
  simp only [guardRejects_iff] at h
  split at h
  · exact .inl ⟨raise_next.mp h, .inl ‹_›⟩
  · split at h
    · exact .inl ⟨raise_next.mp h, .inr ‹_›⟩
    · split at h
      · exact .inr (.inl ⟨raise_next.mp h, ‹_›⟩)
      · exact .inr (.inr ⟨by omega, by omega, by omega, commit_next.mp h⟩)

theorem execDecode_cases (h : execDecode s = .next t) :
    (t = s.complete .lengthRange ∧ (s.opN > s.pixMax ∨ s.pixHeader.toNat / 8 > s.payMax)) ∨
    (t = s.complete .headerCorrupt ∧ s.opN < Config.hdrBits) ∨
    (t = s.complete .truncatedPayload ∧ s.pixHeader.toNat + Config.hdrBits > s.opN) ∨
    (t = s.complete .malformedLength ∧ s.pixHeader.toNat % 8 ≠ 0) ∨
    (s.opN ≤ s.pixMax ∧ s.pixHeader.toNat + Config.hdrBits ≤ s.opN ∧ s.pixHeader.toNat % 8 = 0 ∧
      s.pixHeader.toNat / 8 ≤ s.payMax ∧
      t = (((((s.writeBit 0 (s.decodedBits ++ (extract (s.pixTo s.opN)).drop s.pixHeader.toNat)).setBitlen
        s.pixHeader).setHdrval s.pixHeader).writePay 0 (packBits s.decodedBits)).setPaylen
        (BitVec.ofNat 32 (s.pixHeader.toNat / 8))).complete .ok) := by
  unfold execDecode at h
  split at h
  · exact .inl ⟨raise_next.mp h, .inl ‹_›⟩
  · split at h
    · exact .inr (.inl ⟨raise_next.mp h, ‹_›⟩)
    · split at h
      · exact .inr (.inr (.inl ⟨raise_next.mp h, ‹_›⟩))
      · split at h
        · exact .inr (.inr (.inr (.inl ⟨raise_next.mp h, ‹_›⟩)))
        · split at h
          · exact .inl ⟨raise_next.mp h, .inr ‹_›⟩
          · exact .inr (.inr (.inr (.inr ⟨by omega, by omega, by omega, by omega, commit_next.mp h⟩)))

/-- The shape of a completion of `s`: a code, and either the command's own commit or the state as it was, with the
fields that no command writes as they were (R85, R210, R211). -/
def CompletionOf (s : State) (o : Host.Outcome State Fault Refusal) : Prop :=
  ∃ c u, o = .next (u.complete c) ∧ (c ≠ .ok → u = s) ∧ s.KeepsFixed u

theorem completionOf_raise (s : State) (c : ErrCode) : CompletionOf s (raise c s) :=
  ⟨c, s, raise_eq s c, fun _ => rfl, ⟨rfl, rfl, rfl, rfl, rfl, rfl, rfl, rfl, rfl, rfl⟩⟩

theorem completionOf_commit {u : State} (h : s.KeepsFixed u) : CompletionOf s (commit u) :=
  ⟨.ok, u, commit_eq u, fun h => absurd rfl h, h⟩

/-- A check that raises its code, before a completion of the shape. -/
theorem completionOf_guard {p : Prop} [Decidable p] {c : ErrCode} {o : Host.Outcome State Fault Refusal}
    (h : CompletionOf s o) : CompletionOf s (if p then raise c s else o) := by
  split
  · exact completionOf_raise s c
  · exact h

/-- Every command's completion has that shape. -/
theorem exec_shape (i : Instr) (s : State) : CompletionOf s (exec i s) := by
  cases i <;> simp only [exec]
  case bytesToBits =>
    exact completionOf_guard (completionOf_guard (completionOf_commit (by constructor <;> simp)))
  case bitsToBytes =>
    exact completionOf_guard (completionOf_guard (completionOf_guard
      (completionOf_commit (by constructor <;> simp))))
  case encodeHeader => exact completionOf_commit (by constructor <;> simp)
  case decodeHeader =>
    exact completionOf_guard (completionOf_guard (completionOf_commit (by constructor <;> simp)))
  case frame =>
    exact completionOf_guard (completionOf_guard (completionOf_guard
      (completionOf_commit (by constructor <;> simp))))
  case unframe =>
    exact completionOf_guard (completionOf_guard (completionOf_guard
      (completionOf_commit (by constructor <;> simp))))
  case check =>
    exact completionOf_guard (completionOf_guard (completionOf_guard
      (completionOf_commit (by constructor <;> simp))))
  case embed =>
    exact completionOf_guard (completionOf_guard (completionOf_guard
      (completionOf_commit (by constructor <;> simp))))
  case extract =>
    exact completionOf_guard (completionOf_commit (by constructor <;> simp))
  case encode =>
    exact completionOf_guard (completionOf_guard (completionOf_guard
      (completionOf_commit (by constructor <;> simp))))
  case decode =>
    exact completionOf_guard (completionOf_guard (completionOf_guard (completionOf_guard (completionOf_guard
      (completionOf_commit (by constructor <;> simp))))))

theorem onlyStatus_eq (s : State) (c : ErrCode) : s.onlyStatus c = s.complete c := rfl

end Sys2Proof.Machine
end

