-- ==== Sys2Proof/Laws/PerInstr.lean ====
section
/-! SUPPORT. Facts about each command as syntax. -/

namespace Sys2Proof.Laws

/-- A command's word has only its OP field set, with a number the opcode map assigns (30_encoding R80, R81). -/
def EncodedWord.Statement (i : Instr) : Prop :=
  rsvdField (encode i) = 0 ∧ opField (encode i) = opcode i ∧ 0x01 ≤ opcode i ∧ opcode i ≤ 0x0B

theorem EncodedWord.bytesToBits : EncodedWord.Statement .bytesToBits := ⟨rfl, rfl, by decide, by decide⟩
theorem EncodedWord.bitsToBytes : EncodedWord.Statement .bitsToBytes := ⟨rfl, rfl, by decide, by decide⟩
theorem EncodedWord.encodeHeader : EncodedWord.Statement .encodeHeader := ⟨rfl, rfl, by decide, by decide⟩
theorem EncodedWord.decodeHeader : EncodedWord.Statement .decodeHeader := ⟨rfl, rfl, by decide, by decide⟩
theorem EncodedWord.frame : EncodedWord.Statement .frame := ⟨rfl, rfl, by decide, by decide⟩
theorem EncodedWord.unframe : EncodedWord.Statement .unframe := ⟨rfl, rfl, by decide, by decide⟩
theorem EncodedWord.check : EncodedWord.Statement .check := ⟨rfl, rfl, by decide, by decide⟩
theorem EncodedWord.embed : EncodedWord.Statement .embed := ⟨rfl, rfl, by decide, by decide⟩
theorem EncodedWord.extract : EncodedWord.Statement .extract := ⟨rfl, rfl, by decide, by decide⟩
theorem EncodedWord.encode : EncodedWord.Statement .encode := ⟨rfl, rfl, by decide, by decide⟩
theorem EncodedWord.decode : EncodedWord.Statement .decode := ⟨rfl, rfl, by decide, by decide⟩

end Sys2Proof.Laws
end

