-- ==== Sys2Proof/Laws/Step.lean ====
section
/-! SUPPORT. What one step can be: the move of one agent. -/

namespace Sys2Proof.Machine

variable {s t : State}

theorem State.nextTurn_of_head {x : Turn} (h : s.turns.head? = some x) : s.nextTurn = x := by
  unfold State.nextTurn
  cases hs : s.turns with
  | nil => simp [hs] at h
  | cons y l => simpa [hs] using h

theorem State.nextTurn_engine {c : InFlight} (hc : s.inFlight = some c)
    (h : s.turns.head? = some .engine ∨ s.turns = []) : s.nextTurn = .engine := by
  rcases h with h | h
  · exact State.nextTurn_of_head h
  · simp [State.nextTurn, h, State.busy, hc]

/-- A step is the engine's, the host's or the reset input's (R2, R207). -/
theorem step_cases (h : step s = .next t) :
    (s.nextTurn = .engine ∧ engineStep s.popTurn = .next t) ∨ (s.nextTurn = .host ∧ t = s.popTurn.hostStep) ∨
      (s.nextTurn = .reset ∧ t = s.popTurn.resetStep) := by
  unfold step at h
  split at h
  · exact .inl ⟨‹_›, h⟩
  · injection h with h; exact .inr (.inl ⟨‹_›, h.symm⟩)
  · injection h with h; exact .inr (.inr ⟨‹_›, h.symm⟩)

/-- A host step is nothing, a transaction, a poll, or the halt; a host that has halted has none but the first. -/
theorem State.hostStep_cases (s : State) :
    ((s.halted = true ∨ s.hostOps = []) ∧ s.hostStep = s) ∨
    (∃ x l, s.halted = false ∧ s.hostOps = .txn x :: l ∧ s.hostStep = (s.transact x).1.answered l (s.transact x).2) ∨
    (∃ l l' r, s.halted = false ∧ s.hostOps = .wait :: l ∧ s.hostStep = s.answered l' r) ∨
    (∃ l, s.halted = false ∧ s.hostOps = .halt :: l ∧ s.hostStep = s.halt l) := by
  unfold State.hostStep
  cases hs : s.halted with
  | true => exact .inl ⟨.inl rfl, rfl⟩
  | false =>
    simp only [Bool.false_eq_true, if_false]
    split
    · exact .inl ⟨.inr ‹_›, rfl⟩
    · exact .inr (.inl ⟨_, _, trivial, ‹_›, rfl⟩)
    · split
      · exact .inr (.inr (.inl ⟨_, _, _, trivial, ‹_›, rfl⟩))
      · exact .inr (.inr (.inl ⟨_, _, _, trivial, ‹_›, rfl⟩))
    · exact .inr (.inr (.inr ⟨_, trivial, ‹_›, rfl⟩))

/-- A host that has halted does nothing (R89). -/
@[simp] theorem State.hostStep_of_halted (h : s.halted = true) : s.hostStep = s := by
  simp [State.hostStep, h]

/-- An engine step is nothing, the completion of a decoded command, or of an ILLEGAL word (R210). -/
theorem engineStep_cases (h : engineStep s = .next t) :
    (s.inFlight = none ∧ t = s) ∨ (∃ c i, s.inFlight = some c ∧ decode c.word = .ok i ∧ exec i s = .next t) ∨
      (∃ c e, s.inFlight = some c ∧ decode c.word = .error e ∧ t = s.complete .illegalCommand) := by
  unfold engineStep at h
  split at h
  · injection h with h; exact .inl ⟨‹_›, h.symm⟩
  · split at h
    · exact .inr (.inl ⟨_, _, ‹_›, ‹_›, h⟩)
    · exact .inr (.inr ⟨_, _, ‹_›, ‹_›, raise_next.mp h⟩)

theorem core_run_zero (s : State) : core.run 0 s = .next s := rfl

/-- A run of one more step goes on from the step's answer. -/
theorem core_run_succ (h : step s = .next t) (n : Nat) : core.run (n + 1) s = core.run n t := by
  have h' : core.step s = .next t := h
  simp only [Host.Core.run]
  rw [h']

/-- A host step while a command is in flight leaves it in flight (R60). -/
theorem State.hostStep_inFlight_of_busy (hb : s.busy = true) : s.hostStep.inFlight = s.inFlight := by
  rcases State.hostStep_cases s with ⟨-, h⟩ | ⟨x, l, -, -, h⟩ | ⟨l, l', r, -, -, h⟩ | ⟨l, -, -, h⟩
  · rw [h]
  · rw [h, State.answered_inFlight, State.transact_inFlight_of_busy hb]
  · rw [h, State.answered_inFlight]
  · rw [h, State.halt_inFlight]

end Sys2Proof.Machine
end

