-- ==== Sys2Proof/Tests/Slice0.lean ====
section
/-! SUPPORT. Small tests, with results from 95_test_vectors.md, and for each statement with hypotheses a theorem that
shows states and operands that meet them, clause by clause. -/

namespace Sys2Proof.Tests

open Sys2Proof Sys2Proof.Machine

/-- A block with small parameters, right after reset. -/
def small : State := { State.reset with pixMax := 64, payMax := 8 }

/-- The bits of a numeral, the first bit first: `bitsOf 8 0b01101000` is 0 1 1 0 1 0 0 0. -/
def bitsOf (n v : Nat) : List Bit := (List.range n).map (fun i => v.testBit (n - 1 - i))

/-- The next state, where there is one. -/
def after : Host.Outcome State Fault Refusal → Option State
  | .next s => some s
  | .fault _ => none
  | .refused _ => none

/-- What a test looks at after a command: the code, the lengths and the listed cells of BIT. -/
def seen (o : Host.Outcome State Fault Refusal) : Option (ErrCode × Nat × Nat × Nat × List Bit) :=
  (after o).map (fun t => (t.errcode, t.paylen.toNat, t.bitlen.toNat, t.hdrval.toNat, t.bit.map Prod.snd))

/-- The code a command completes with. -/
def codeOf (o : Host.Outcome State Fault Refusal) : Option ErrCode := (after o).map State.errcode

/-- `small` with a bit sequence of length `n` in BIT and BITLEN. -/
def withBits (n v : Nat) : State := (small.writeBit 0 (bitsOf n v)).setBitlen (BitVec.ofNat 32 n)

/-- `small` with payload bytes in PAY and PAYLEN. -/
def withPay (bs : List Byte) : State := (small.writePay 0 bs).setPaylen (BitVec.ofNat 32 bs.length)

/-- `small` with carrier bytes in PIX and PIXCNT. -/
def withPix (bs : List Byte) : State := (small.writePix 0 bs).setPixcnt (BitVec.ofNat 32 bs.length)

/-- `small` with lengths only. -/
def lens (pixcnt paylen bitlen : Nat) : State :=
  ((small.setPixcnt (BitVec.ofNat 32 pixcnt)).setPaylen (BitVec.ofNat 32 paylen)).setBitlen (BitVec.ofNat 32 bitlen)

/-- `small` with a command word in flight. -/
def busyWith (w : Word) : State := small.accept w

/-- A carrier of `n` bytes whose bit plane 0 begins with the header of `v`, the other bits 0. -/
def carrier (n : Nat) (v : Word) : State :=
  withPix ((encodeHeader v ++ zeros (n - 32)).map (fun f => (BitVec.ofBool f).setWidth 8))

/-! ## Well-formedness: an ill-formed term for each check -/

theorem test_wf_data_too_wide : (BusTxn.write 0x20000000#32 .byte 0x100#32).wf = false := by decide
theorem test_wf_data_half : (BusTxn.write 0x20000000#32 .half 0x10000#32).wf = false := by decide
theorem test_wf_data_fits : (BusTxn.write 0x20000000#32 .byte 0xFF#32).wf = true := by decide
theorem test_wf_pixMax_below : paramsWf 31 1 = false := by decide
theorem test_wf_pixMax_above : paramsWf (2 ^ 28 + 1) 1 = false := by decide
theorem test_wf_payMax_below : paramsWf 32 0 = false := by decide
theorem test_wf_payMax_above : paramsWf 32 (2 ^ 28 + 1) = false := by decide
theorem test_wf_params_bounds : paramsWf 32 1 = true ∧ paramsWf (2 ^ 28) (2 ^ 28) = true := by decide

/-! ## Decoding: words written out from R80 and R81 as RSVD (24 bits) then OP (8 bits), the table's bit numbering,
and the ILLEGAL words of 95_test_vectors.md section 2.6 -/

theorem test_decode_bytesToBits : decode (0#24 ++ 0b00000001#8) = .ok .bytesToBits := by decide
theorem test_decode_bitsToBytes : decode (0#24 ++ 0b00000010#8) = .ok .bitsToBytes := by decide
theorem test_decode_encodeHeader : decode (0#24 ++ 0b00000011#8) = .ok .encodeHeader := by decide
theorem test_decode_decodeHeader : decode (0#24 ++ 0b00000100#8) = .ok .decodeHeader := by decide
theorem test_decode_frame : decode (0#24 ++ 0b00000101#8) = .ok .frame := by decide
theorem test_decode_unframe : decode (0#24 ++ 0b00000110#8) = .ok .unframe := by decide
theorem test_decode_check : decode (0#24 ++ 0b00000111#8) = .ok .check := by decide
theorem test_decode_embed : decode (0#24 ++ 0b00001000#8) = .ok .embed := by decide
theorem test_decode_extract : decode (0#24 ++ 0b00001001#8) = .ok .extract := by decide
theorem test_decode_encode : decode (0#24 ++ 0b00001010#8) = .ok .encode := by decide
theorem test_decode_decode : decode (0#24 ++ 0b00001011#8) = .ok .decode := by decide
theorem test_decode_illegal : decode 0x00000000#32 = .error .unassignedOpcode ∧
    decode 0x0000000C#32 = .error .unassignedOpcode ∧ decode 0x000000FF#32 = .error .unassignedOpcode ∧
    decode 0x00000107#32 = .error .reservedBitsSet ∧ decode 0x80000001#32 = .error .reservedBitsSet := by decide
theorem test_tableWord : decodeTableWord 32 0x0000000A = some .encode ∧ decodeTableWord 32 0x0000010A = none := by
  decide
theorem test_fetch : codeOf (step (State.reset.withFetchWord 32 0x07)) = some .capacityExceeded ∧
    codeOf (step (State.reset.withFetchWord 32 0x0C)) = some .illegalCommand := by decide

/-! ## The commands: rows of 95_test_vectors.md section 2 -/

theorem test_bytesToBits_hi : seen (exec .bytesToBits (withPay [0x68#8, 0x69#8])) =
    some (.ok, 2, 16, 0, bitsOf 16 0b0110100001101001) := by decide
theorem test_bytesToBits_long : codeOf (exec .bytesToBits (lens 0 9 0)) = some .lengthRange := by decide
theorem test_bitsToBytes_hi : (after (exec .bitsToBytes (withBits 16 0b0110100001101001))).map
    (fun t => (t.errcode, t.paylen, t.pay)) = some (.ok, 2#32, [(0, 0x68#8), (1, 0x69#8)]) := by decide
theorem test_bitsToBytes_codes : codeOf (exec .bitsToBytes (lens 0 0 15)) = some .malformedLength ∧
    codeOf (exec .bitsToBytes (lens 0 0 65)) = some .lengthRange := by decide
theorem test_encodeHeader : seen (exec .encodeHeader (small.setHdrval 0x12345678#32)) =
    some (.ok, 0, 32, 0x12345678, bitsOf 32 0b01111000010101100011010000010010) := by decide
theorem test_decodeHeader : (after (exec .decodeHeader (withBits 32 0b01111000010101100011010000010010))).map
    State.hdrval = some 0x12345678#32 := by decide
theorem test_decodeHeader_short : codeOf (exec .decodeHeader (lens 0 0 31)) = some .headerCorrupt := by decide
theorem test_frame : seen (exec .frame ((withBits 8 0b01000001).setPixcnt 48#32)) =
    some (.ok, 0, 48, 8, bitsOf 48 0b000010000000000000000000000000000100000100000000) := by decide
theorem test_frame_boundary : codeOf (exec .frame (lens 48 0 16)) = some .ok ∧
    codeOf (exec .frame (lens 48 0 17)) = some .capacityExceeded := by decide
theorem test_unframe : seen (exec .unframe (withBits 48 0b000010000000000000000000000000000100000100000000)) =
    some (.ok, 0, 8, 8, bitsOf 48 0b010000010000000000000000000000000100000100000000) := by decide
theorem test_unframe_truncated : codeOf (exec .unframe (withBits 39 0b000010000000000000000000000000000100000)) =
      some .truncatedPayload ∧
    codeOf (exec .unframe (withBits 40 0b1111111111111111111111111111111100000000)) = some .truncatedPayload := by decide
theorem test_check_boundary : codeOf (exec .check (lens 64 0 31)) = some .ok ∧
    codeOf (exec .check (lens 64 0 32)) = some .capacityExceeded := by decide
theorem test_check_zero : codeOf (exec .check (lens 0 0 0)) = some .capacityExceeded ∧
    codeOf (exec .check (lens 65 0 0)) = some .lengthRange := by decide
theorem test_embed : (after (exec .embed (((withPix [0x00#8, 0x01#8, 0xFE#8, 0xFF#8]).writeBit 0
    [true, false, true, false]).setBitlen 4#32))).map (fun t => (t.errcode, t.pix)) =
    some (.ok, [(0, 0x01#8), (1, 0x00#8), (2, 0xFF#8), (3, 0xFE#8)]) := by decide
theorem test_embed_mismatch : codeOf (exec .embed (lens 4 0 3)) = some .lengthMismatch ∧
    codeOf (exec .embed (lens 4 0 5)) = some .lengthMismatch := by decide
theorem test_extract : seen (exec .extract (withPix [0xAA#8, 0x55#8, 0x81#8])) =
    some (.ok, 0, 3, 0, [false, true, true]) := by decide
theorem test_extract_long : codeOf (exec .extract (lens 65 0 0)) = some .lengthRange := by decide

/-- The carrier of program P1, `PIX[i] = i`, with its payload. -/
def programOne : State :=
  ((withPix ((List.range 48).map (BitVec.ofNat 8))).writePay 0 [0x41#8]).setPaylen 1#32

/-- Program P1: the words at `PIXW + 4m`, m = 0..11, read back as its end state gives them. -/
theorem test_encode_programOne : (after (exec .encode programOne)).map
    (fun t => (t.errcode, t.bitlen, t.hdrval, (List.range 12).map (fun m => t.windowRead .pixw (4 * m) .word))) =
    some (.ok, 48#32, 8#32, [0x02020000#32, 0x06060405#32, 0x0A0A0808#32, 0x0E0E0C0C#32, 0x12121010#32, 0x16161414#32,
      0x1A1A1818#32, 0x1E1E1C1C#32, 0x22222120#32, 0x27262424#32, 0x2A2A2828#32, 0x2E2E2C2C#32]) := by decide
theorem test_encode_boundary : codeOf (exec .encode (lens 40 1 0)) = some .capacityExceeded ∧
    codeOf (exec .encode (lens 41 1 0)) = some .ok := by decide

/-- Program P2: DECODE of the carrier of P1. -/
theorem test_decode_programTwo : (after (exec .decode (((after (exec .encode programOne)).getD small).setPaylen
    0#32))).map (fun t => (t.errcode, t.payCell 0, [t.paylen, t.hdrval, t.bitlen], t.bitTo 48)) =
    some (.ok, 0x41#8, [1#32, 8#32, 8#32], bitsOf 48 0b010000010000000000000000000000000100000100000000) := by decide
theorem test_decode_codes : codeOf (exec .decode (lens 31 0 0)) = some .headerCorrupt ∧
    codeOf (exec .decode (carrier 64 33#32)) = some .truncatedPayload ∧
    codeOf (exec .decode (carrier 64 12#32)) = some .malformedLength ∧
    codeOf (exec .decode (carrier 64 32#32)) = some .ok := by decide

/-! ## The bus and the life cycle: rows of 95_test_vectors.md section 2.6 -/

theorem test_bus_constants : (small.transact (.read 0x00#32 .word)).2 = .okData 0x4C534250#32 ∧
    (small.transact (.read 0x04#32 .word)).2 = .okData 0x00010000#32 ∧
    (small.transact (.read 0x18#32 .word)).2 = .okData 0#32 := by decide
theorem test_bus_errors : (small.transact (.read 0x14#32 .byte)).2 = .busErr ∧
    (small.transact (.read 0x1C#32 .word)).2 = .busErr ∧ (small.transact (.read 0x30#32 .word)).2 = .busErr ∧
    (small.transact (.write 0x00#32 .word 0#32)).2 = .busErr ∧
    (small.transact (.write 0x10000001#32 .half 0#32)).2 = .busErr ∧
    (State.transact { small with pixMax := 1001 } (.write 0x100003E8#32 .word 0#32)).2 = .busErr := by decide
theorem test_bus_busy : ((busyWith 0x0A#32).transact (.write 0x18#32 .word 1#32)).2 = .busErr ∧
    ((busyWith 0x0A#32).transact (.read 0x20#32 .word)).2 = .busErr ∧
    ((busyWith 0x0A#32).transact (.read 0x14#32 .word)).2 = .okData 1#32 := by decide
theorem test_bus_status : (State.transact { small with done := true, errcode := .truncatedPayload }
      (.write 0x14#32 .word 2#32)).1.statusWord = 0x30#32 ∧
    (State.transact { small with done := true } (.write 0x14#32 .word 0xFFFFFFFD#32)).1.statusWord = 2#32 := by decide
theorem test_bus_ctrl : (small.transact (.write 0x10#32 .word 0xFFFFFFFF#32)).1.ctrlWord = 3#32 := by decide
theorem test_bus_pixw : [0x10000000#32, 0x10000001#32, 0x10000002#32, 0x10000003#32].map (fun a =>
      ((small.transact (.write 0x10000000#32 .word 0x44332211#32)).1.transact (.read a .byte)).2) =
    [.okData 0x11#32, .okData 0x22#32, .okData 0x33#32, .okData 0x44#32] := by decide
theorem test_bus_bitw : ((small.transact (.write 0x30000005#32 .byte 0xFE#32)).1.transact
      (.read 0x30000005#32 .byte)).2 = .okData 0#32 ∧
    ((small.transact (.write 0x30000000#32 .word 0xFFFFFFFF#32)).1.transact (.read 0x30000000#32 .word)).2 =
      .okData 0x01010101#32 := by decide
/-- `wr CMD, 0` on an idle block: accepted, then STATUS = 0x72. -/
theorem test_illegal_status : (after (core.run 2 (small.withHostProgram [.wr 0x18#32 0#32]))).map State.statusWord =
    some 0x72#32 := by decide
/-- The lines of R88 and R89 as transactions. -/
theorem test_assemble : assemble [.run .decode, .ack, .bits 3 [true, false], .wrh 0x10000002#32 0xABCD#16, .halt] =
    [.txn (.write 0x18#32 .word 0x0B#32), .wait, .txn (.write 0x14#32 .word 2#32),
      .txn (.write 0x30000003#32 .byte 1#32), .txn (.write 0x30000004#32 .byte 0#32),
      .txn (.write 0x10000002#32 .half 0xABCD#32), .halt] := by decide
/-- Halting ends a run, and what stands after `halt` is never done. -/
theorem test_ended : (after (core.run 3 (small.withHostProgram [.halt, .wr 0x20#32 5#32]))).map
    (fun t => (t.ended, t.pixcnt)) = some (true, 0#32) := by decide
/-- Neither a block just out of reset, nor a program that ran out with no `halt`, nor a halt with a command in flight
is the end of a run. -/
theorem test_not_ended : small.ended = false ∧
    (after (core.run 1 (small.withHostProgram [.ack]))).map State.ended = some false ∧
    State.ended { busyWith 1#32 with halted := true } = false := by decide

/-! ## Witnesses: states and operands that meet the hypotheses of each statement, clause by clause -/

/-- A busy block with a reset coming. -/
theorem witness_ResetStepSetsRegisters :
    (State.turns { busyWith 0x0A#32 with turns := [.reset], pixcnt := 5#32, fill := true }).head? = some .reset := by
  decide
theorem witness_ResetStepForgetsMemories :
    (State.turns { withBits 8 0xFF with turns := [.reset, .host] }).head? = some .reset := by decide

theorem witness_StepCompletesDecodedCommand :
    ((busyWith 0x0A#32).inFlight = some ⟨0x0A#32, false⟩ ∧ (busyWith 0x0A#32).turns = [] ∧
      decode 0x0A#32 = .ok .encode) ∧
    (State.turns { busyWith 0x0A#32 with turns := [.engine, .host] }).head? = some .engine := by decide
theorem witness_IllegalWordCompletes : small.busy = false ∧
    (busyWith 0x107#32).inFlight = some ⟨0x107#32, false⟩ ∧ (busyWith 0x107#32).turns = [] ∧
      decode 0x107#32 = .error .reservedBitsSet := by decide
theorem witness_CommandWriteIsAccepted : small.busy = false ∧ (busyWith 1#32).busy = true := by decide

/-- A command that fails, for CompletionIsAllOrNothing and RetryFailsAgain. -/
theorem witness_failed_command : ∃ t, exec .check small = .next t ∧ t.errcode ≠ .ok :=
  ⟨_, rfl, by decide⟩

/-- The invariant holds of a state with a cell listed in each memory, at the first and the last index. -/
theorem witness_invariant :
    State.Inv { small with pix := [(0, 1#8), (63, 2#8)], pay := [(0, 1#8), (7, 2#8)], bit := [(0, true), (63, false)] } :=
  ⟨by decide, by decide, by decide, by decide, by decide, by decide, by decide, by decide⟩
theorem witness_RaisedCodesAreTheTable : .malformedLength ∈ raisable .bitsToBytes ∧
    codeOf (exec .bitsToBytes (lens 0 0 15)) = some .malformedLength ∧ paramsWf small.pixMax small.payMax = true := by
  decide

/-- A command's completion, for CommandsKeepFixedState, CommandsChangeOnlyPixelLsbs (its pixel 4 lies beyond PIXCNT) and InterruptRisesAndFalls. -/
theorem witness_completion : (∃ t, exec .embed (lens 4 0 4) = .next t ∧ t.errcode = .ok) ∧ (lens 4 0 4).pixcnt.toNat ≤ 4 :=
  ⟨⟨_, rfl, rfl⟩, by decide⟩

theorem witness_BusyRisesOnlyByCommandWrite :
    ∃ t, step (small.withHostProgram [.cmd .frame]) = .next t ∧ t.busy = true ∧ small.busy = false :=
  ⟨_, rfl, by decide⟩
theorem witness_OtherHostStepsKeepFlags : (small.withHostProgram [.wr 0x20#32 5#32]).turns = [] ∧ small.busy = false ∧
    ∃ t, step { small.withHostProgram [.wr 0x20#32 5#32] with turns := [.host] } = .next t ∧ t.pixcnt = 5#32 ∧
      ∀ n v, (small.withHostProgram [.wr 0x20#32 5#32]).hostOps.head? ≠ some (.txn (.write 0x18#32 n v)) ∧
        (small.withHostProgram [.wr 0x20#32 5#32]).hostOps.head? ≠ some (.txn (.write 0x14#32 n v)) :=
  ⟨by decide, by decide, _, rfl, by decide, fun n v => ⟨by simp [State.withHostProgram, assemble, HostLine.expand],
    by simp [State.withHostProgram, assemble, HostLine.expand]⟩⟩
theorem witness_AcceptedCommandCompletes : (busyWith 1#32).busy = true ∧
    (∀ x ∈ (State.turns { busyWith 1#32 with turns := [.host, .host, .engine] }), x ≠ .reset) ∧
    (∀ x ∈ (busyWith 1#32).turns, x ≠ .reset) := by decide
theorem witness_HostLinesCmdAndHalt : small.busy = false ∧ small.turns = [] ∧ (∃ t, step small = .next t) ∧
    (State.halted { small with halted := true } = true ∧ State.nextTurn { small with halted := true } = .host) :=
  ⟨by decide, by decide, ⟨_, rfl⟩, by decide⟩

theorem witness_BusErrorChangesNothing : (small.transact (.write 0x00#32 .word 1#32)).2 = .busErr := by decide

/-- The first and the last address of each locked range, and both kinds of state. -/
theorem witness_LockoutWhileBusy : (busyWith 1#32).busy = true ∧
    (∀ a ∈ [0x18#32, 0x1B#32], 0x18 ≤ (BusTxn.read a .word).addr.toNat ∧ (BusTxn.read a .word).addr.toNat < 0x1C) ∧
    (∀ a ∈ [0x20#32, 0x2F#32], 0x20 ≤ (BusTxn.read a .word).addr.toNat ∧ (BusTxn.read a .word).addr.toNat < 0x30) ∧
    (∀ a ∈ [0x10000000#32, 0x3FFFFFFF#32], 0x10000000 ≤ (BusTxn.read a .byte).addr.toNat ∧
      (BusTxn.read a .byte).addr.toNat < 0x40000000) := by
  simp [BusTxn.addr, busyWith, State.busy]

/-- The first and the last address of each reserved range, for `small` (64 pixels, 8 payload bytes). -/
theorem witness_UnmappedAddressesAnswerBusErr :
    (∀ a ∈ [0x1C#32, 0x1F#32], 0x1C ≤ a.toNat ∧ a.toNat < 0x20) ∧
    (∀ a ∈ [0x30#32, 0x0FFFFFFF#32], 0x30 ≤ a.toNat ∧ a.toNat < 0x10000000) ∧
    (∀ a ∈ [0x40000000#32, 0xFFFFFFFF#32], 0x40000000 ≤ a.toNat) ∧
    (∀ a ∈ [0x10000040#32, 0x1FFFFFFF#32], 0x10000000 + small.pixMax ≤ a.toNat ∧ a.toNat < 0x20000000) ∧
    (∀ a ∈ [0x20000008#32, 0x2FFFFFFF#32], 0x20000000 + small.payMax ≤ a.toNat ∧ a.toNat < 0x30000000) ∧
    (∀ a ∈ [0x30000040#32, 0x3FFFFFFF#32], 0x30000000 + small.bitMax ≤ a.toNat ∧ a.toNat < 0x40000000) := by
  simp [small, State.bitMax]

theorem witness_CsrAccessesAreWholeWords :
    ((BusTxn.read 0x14#32 .byte).addr.toNat < 0x1000 ∧ (BusTxn.read 0x14#32 .byte).width ≠ .word) ∧
    ((BusTxn.write 0xFFF#32 .word 0#32).addr.toNat < 0x1000 ∧ (BusTxn.write 0xFFF#32 .word 0#32).addr.toNat % 4 ≠ 0) ∧
    small.busy = false := by decide
theorem witness_AccessSideEffects : (0x20#32 : Addr) ≠ 0x18#32 ∧ (0x20#32 : Addr) ≠ 0x14#32 ∧ small.busy = false := by
  decide

/-- Each window and each width, at the first and the last aligned index, for WindowReadIsLittleEndian and
WindowWriteStoresBytes. -/
theorem witness_window_accesses : paramsWf small.pixMax small.payMax = true ∧ small.busy = false ∧
    (∀ w ∈ [Window.pixw, .payw, .bitw], ∀ n ∈ [Width.byte, .half, .word], ∀ i ∈ [0, small.windowSize w - n.bytes],
      (BitVec.ofNat 32 (w.base + i)).toNat = w.base + i ∧ (BitVec.ofNat 32 (w.base + i)).toNat % n.bytes = 0 ∧
        i + n.bytes ≤ small.windowSize w) := by decide

/-- Misaligned within the window, and aligned with the last byte beyond it. -/
theorem witness_WindowShapeErrors :
    ((BusTxn.read 0x10000001#32 .half).addr.toNat = Window.pixw.base + 1 ∧
      (BusTxn.read 0x10000001#32 .half).addr.toNat % (BusTxn.read 0x10000001#32 .half).width.bytes ≠ 0) ∧
    ((BusTxn.write 0x20000008#32 .word 0#32).addr.toNat = Window.payw.base + 8 ∧
      small.windowSize .payw < 8 + (BusTxn.write 0x20000008#32 .word 0#32).width.bytes) ∧
    ((BusTxn.read 0x3FFFFFFF#32 .byte).addr.toNat = Window.bitw.base + (2 ^ 28 - 1) ∧
      small.windowSize .bitw < 2 ^ 28 - 1 + (BusTxn.read 0x3FFFFFFF#32 .byte).width.bytes) := by decide

theorem witness_BitWindowLayout : paramsWf small.pixMax small.payMax = true ∧ small.busy = false ∧
    (63 < small.bitMax ∧ 0 < small.bitMax) ∧ 4 * 15 + 4 ≤ small.bitMax := by decide
theorem witness_WordWriteReadsBackByBytes : paramsWf small.pixMax small.payMax = true ∧ small.busy = false ∧
    Window.payw ≠ .bitw ∧ (0x20000004#32 : Addr).toNat = Window.payw.base + 4 ∧ 4 % 4 = 0 ∧
    4 + 4 ≤ small.windowSize .payw ∧ (3 : Nat) < 4 := by decide
theorem witness_InterruptRisesAndFalls : (2#32 : Word).getLsbD 1 = true ∧ (2#32 : Word).getLsbD 0 = false ∧
    small.busy = false := by decide
theorem witness_ControlWriteWhileBusy : (busyWith 0x07#32).busy = true ∧
    (∃ u, illegalCompletion (busyWith 0x07#32) = .next u) ∧ ∃ u, exec .check (busyWith 0x07#32) = .next u :=
  ⟨by decide, ⟨_, rfl⟩, _, rfl⟩

theorem witness_BytesToBitsElements : 0 < [0x41#8].length ∧ 7 < 8 := by decide
/-- Lengths 7 and 8, for BitsToBytesValues and BitsAndBytesAreInverse. -/
theorem witness_bit_lengths : (bitsOf 7 1).length % 8 ≠ 0 ∧ (bitsOf 8 1).length % 8 = 0 ∧ 0 < (bitsOf 8 1).length / 8 := by
  decide
theorem witness_BitsAndBytesAreInverse :
    paramsWf (withPay [0x68#8, 0x69#8]).pixMax (withPay [0x68#8, 0x69#8]).payMax = true ∧
    (runCommands [.bytesToBits, .bitsToBytes] (withPay [0x68#8, 0x69#8])).isSome = true := by decide
theorem witness_HeaderBitsOfValue : (3 : Nat) < 4 ∧ (7 : Nat) < 8 := by decide
/-- Lengths 31 and 32, for HeaderValueOfBits and HeaderFidelity. -/
theorem witness_header_lengths : (bitsOf 31 1).length < 32 ∧ 32 ≤ (bitsOf 32 1).length ∧
    paramsWf small.pixMax small.payMax = true := by decide
theorem witness_FrameInverse : ((bitsOf 8 1).length < 2 ^ 32 ∧ (bitsOf 8 1).length + 32 ≤ 40 ∧
      ([] : List Bit).length = 40 - 32 - (bitsOf 8 1).length) ∧
    (runCommands [.frame, .unframe] ((withBits 8 0x41).setPixcnt 40#32)).isSome = true := by decide
theorem witness_CapacityGuardBoundary : 8 + 32 ≥ 40 ∧ 7 + 32 < 40 ∧ (33 : Nat) ≤ 33 := by decide
theorem witness_EmbedChangesOnlyLsbs : [0xFE#8].length = [true].length ∧ 0 < (embed [0xFE#8] [true]).length := by decide

/-! The commands: each clause at the edge of its range, for the parameters of `small` (PIX_MAX 64, PAY_MAX 8). -/

/-- A header check over the bits of its four bytes shows HeaderAt. -/
theorem headerAt_of_bits {cell : Nat → Bit} {v : Word}
    (h : ∀ j, j < 4 → ∀ k, k < 8 → v.getLsbD (8 * j + 7 - k) = cell (8 * j + k)) : HeaderAt cell v :=
  fun j k hj hk => h j hj k hk

/-- A block whose BIT_MAX is smaller than eight times its PAY_MAX, with a payload of eight bytes. -/
theorem witness_BytesToBitsCommand : small.payMax < (lens 0 9 0).paylen.toNat ∧
    State.bitMax { lens 0 8 0 with pixMax := 63 } < 8 * (lens 0 8 0).paylen.toNat ∧
    ((lens 0 8 0).paylen.toNat ≤ (lens 0 8 0).payMax ∧ 8 * (lens 0 8 0).paylen.toNat ≤ (lens 0 8 0).bitMax ∧
      paramsWf (lens 0 8 0).pixMax (lens 0 8 0).payMax = true) := by decide
theorem witness_BitsToBytesCommand : (lens 0 0 65).bitMax < (lens 0 0 65).bitlen.toNat ∧
    ((lens 0 0 63).bitlen.toNat ≤ (lens 0 0 63).bitMax ∧ (lens 0 0 63).bitlen.toNat % 8 ≠ 0) ∧
    (64 ≤ (lens 0 0 64).bitMax ∧ (lens 0 0 64).bitlen.toNat % 8 = 0 ∧
      (State.payMax { lens 0 0 64 with payMax := 7 }) < (lens 0 0 64).bitlen.toNat / 8) ∧
    (lens 0 0 64).bitlen.toNat / 8 ≤ (lens 0 0 64).payMax := by decide
theorem witness_DecodeHeaderCommand : (lens 0 0 65).bitMax < (lens 0 0 65).bitlen.toNat ∧
    ((lens 0 0 31).bitlen.toNat ≤ (lens 0 0 31).bitMax ∧ (lens 0 0 31).bitlen.toNat < 32) ∧
    ((lens 0 0 32).bitlen.toNat ≤ (lens 0 0 32).bitMax ∧ 32 ≤ (lens 0 0 32).bitlen.toNat) := by decide

/-- For FRAME, CHECK and EMBED: both lengths one too long, and both at the limit. -/
theorem witness_two_lengths : (lens 0 0 65).bitMax < (lens 0 0 65).bitlen.toNat ∧
    (lens 65 0 0).pixMax < (lens 65 0 0).pixcnt.toNat ∧
    ((lens 64 0 64).bitlen.toNat ≤ (lens 64 0 64).bitMax ∧ (lens 64 0 64).pixcnt.toNat ≤ (lens 64 0 64).pixMax) := by
  decide
theorem witness_FrameCommand : (lens 48 0 17).pixcnt.toNat < (lens 48 0 17).bitlen.toNat + 32 ∧
    (lens 48 0 16).bitlen.toNat + 32 ≤ (lens 48 0 16).pixcnt.toNat ∧ (lens 48 0 16).curFill = false ∧
    (lens 48 0 8).bitlen.toNat + 32 ≤ 40 ∧ 40 < (lens 48 0 8).pixcnt.toNat := by decide
theorem witness_CheckCommand : (lens 48 0 16).pixcnt.toNat ≤ (lens 48 0 16).bitlen.toNat + 32 ∧
    (lens 48 0 15).bitlen.toNat + 32 < (lens 48 0 15).pixcnt.toNat := by decide
theorem witness_EmbedCommand : (lens 4 0 5).bitlen ≠ (lens 4 0 5).pixcnt ∧ (lens 64 0 64).bitlen = (lens 64 0 64).pixcnt ∧
    (lens 64 0 64).pixcnt.toNat ≤ (lens 64 0 64).pixMax := by decide
theorem witness_ExtractCommand : (lens 65 0 0).pixMax < (lens 65 0 0).pixcnt.toNat ∧
    (lens 64 0 0).pixcnt.toNat ≤ (lens 64 0 0).pixMax := by decide

/-- A frame of header value 8 in BIT, of `n` bits. -/
def framed (n : Nat) : State := (withBits 40 0b0000100000000000000000000000000001000001).setBitlen (BitVec.ofNat 32 n)

theorem witness_UnframeCommand_header : HeaderAt (framed 40).bitCell 8#32 := headerAt_of_bits (by decide +kernel)
theorem witness_UnframeCommand : (framed 65).bitMax < (framed 65).bitlen.toNat ∧
    ((framed 31).bitlen.toNat ≤ (framed 31).bitMax ∧ (framed 31).bitlen.toNat < 32) ∧
    (32 ≤ (framed 39).bitlen.toNat ∧ (framed 39).bitlen.toNat < (8#32 : Word).toNat + 32) ∧
    ((framed 40).bitlen.toNat ≤ (framed 40).bitMax ∧ (8#32 : Word).toNat + 32 ≤ (framed 40).bitlen.toNat) := by decide

theorem witness_EncodeCommand : (lens 0 9 0).payMax < (lens 0 9 0).paylen.toNat ∧
    (lens 65 0 0).pixMax < (lens 65 0 0).pixcnt.toNat ∧
    ((lens 40 1 0).paylen.toNat ≤ (lens 40 1 0).payMax ∧ (lens 40 1 0).pixcnt.toNat ≤ (lens 40 1 0).pixMax ∧
      (lens 40 1 0).pixcnt.toNat ≤ 8 * (lens 40 1 0).paylen.toNat + 32) ∧
    (8 * (lens 41 1 0).paylen.toNat + 32 < (lens 41 1 0).pixcnt.toNat ∧ (lens 41 1 0).curFill = false) := by decide

/-- Carriers whose headers read 12, 8 and 16, the last in a block with a payload memory of one byte. -/
theorem witness_DecodeCommand_header : HeaderAt (fun i => ((carrier 64 12#32).pixCell i).getLsbD 0) 12#32 ∧
    HeaderAt (fun i => ((carrier 40 8#32).pixCell i).getLsbD 0) 8#32 ∧
    HeaderAt (fun i => (State.pixCell { carrier 64 16#32 with payMax := 1 } i).getLsbD 0) 16#32 :=
  ⟨headerAt_of_bits (by decide +kernel), headerAt_of_bits (by decide +kernel), headerAt_of_bits (by decide +kernel)⟩
theorem witness_DecodeCommand : (lens 65 0 0).pixMax < (lens 65 0 0).pixcnt.toNat ∧
    ((lens 31 0 0).pixcnt.toNat ≤ (lens 31 0 0).pixMax ∧ (lens 31 0 0).pixcnt.toNat < 32) ∧
    (32 ≤ (carrier 39 8#32).pixcnt.toNat ∧ (carrier 39 8#32).pixcnt.toNat < (8#32 : Word).toNat + 32) ∧
    ((12#32 : Word).toNat + 32 ≤ (carrier 64 12#32).pixcnt.toNat ∧ (12#32 : Word).toNat % 8 ≠ 0 ∧
      (carrier 64 12#32).pixcnt.toNat ≤ (carrier 64 12#32).pixMax) ∧
    ((16#32 : Word).toNat + 32 ≤ (carrier 64 16#32).pixcnt.toNat ∧ (16#32 : Word).toNat % 8 = 0 ∧
      1 < (16#32 : Word).toNat / 8) ∧
    ((8#32 : Word).toNat + 32 ≤ (carrier 40 8#32).pixcnt.toNat ∧ (8#32 : Word).toNat % 8 = 0 ∧
      (8#32 : Word).toNat / 8 ≤ (carrier 40 8#32).payMax) := by decide

/-- FRAME and ENCODE with the external filler, each with filler bits to write. -/
theorem witness_ExternalFillerIsDrawn :
    (∃ t, exec .frame (lens 48 0 8 |>.setCtrl 2#32) = .next t ∧ t.errcode = .ok) ∧
    (∃ t, exec .encode (lens 48 1 0 |>.setCtrl 2#32) = .next t ∧ t.errcode = .ok) ∧
    (lens 48 0 8 |>.setCtrl 2#32).curFill = true ∧ (8 + 32 + 7 < 48) :=
  ⟨⟨_, rfl, rfl⟩, ⟨_, rfl, rfl⟩, by decide, by decide⟩

theorem witness_StepKeepsInvariant : small.Inv ∧ ∃ t, step small = .next t :=
  ⟨⟨by decide, by decide, by decide, by decide, by decide, by decide, by decide, by decide⟩, _, rfl⟩
theorem witness_EncodeEqualsItsSequence : (runCommands [.encode] (lens 41 1 0)).isSome = true := by decide
theorem witness_DecodeEqualsItsSequence : (runCommands [.decode] (carrier 40 8#32)).isSome = true := by decide
theorem witness_EncodeDecodeRoundTrip : ∃ t u : State, exec .encode (lens 41 1 0) = .next t ∧ t.errcode = .ok ∧
    u.pixMax = t.pixMax ∧ u.payMax = t.payMax ∧ u.pixcnt = t.pixcnt ∧ u.paylen ≠ t.paylen ∧
    ∀ i, i < t.pixcnt.toNat → u.pixCell i = t.pixCell i :=
  ⟨_, State.setPaylen _ 0#32, rfl, rfl, rfl, rfl, rfl, by decide, fun _ _ => rfl⟩

end Sys2Proof.Tests
end

section
/-! PROOFS. The scope family: the power-on state meets the invariant, and every step of every agent keeps it.

One lemma per state update says when it keeps `State.Inv`; the commands, the bus, the host and the engine are then
case analyses over the inversion lemmas of Laws/Exec, Laws/Bus and Laws/Step. -/

namespace Sys2Proof.Machine

variable {s t : State}

/-! ## Lengths of what the commands write -/

theorem framePayload_length (f : List Bit) (n : Nat) : (framePayload f n).length = min n (f.length - 32) := by
  rw [framePayload, List.length_take, List.length_drop, hdrBits_eq]

/-- FRAME and ENCODE fill exactly the capacity `c` where the header and the payload fit into it (R122). -/
theorem frameBits_filler_length {p : List Bit} {c n : Nat} (hp : p.length = n) (h : n + Config.hdrBits ≤ c) :
    (frameBits p (s.filler (c - Config.hdrBits - n))).length = c := by
  rw [frameBits_length, State.filler_length, hp]
  rw [hdrBits_eq] at h ⊢
  omega

theorem State.encodedFrame_length (h : 8 * s.opP + Config.hdrBits ≤ s.opN) : s.encodedFrame.length = s.opN :=
  frameBits_filler_length (by rw [bytesToBits_length, State.payTo_length]) h

theorem State.decodedBits_length (h : s.pixHeader.toNat + Config.hdrBits ≤ s.opN) :
    s.decodedBits.length = s.pixHeader.toNat := by
  rw [hdrBits_eq] at h
  rw [State.decodedBits, framePayload_length, extract_length, State.pixTo_length]
  omega

/-! ## When an update of the state keeps the invariant -/

/-- The invariant speaks of the parameters, the memories and STATUS alone. -/
theorem State.Inv.of_same_memories (hs : s.Inv) (hstatus : t.busy = true → t.done = false ∧ t.errcode = .ok)
    (hpixMax : t.pixMax = s.pixMax := by rfl) (hpayMax : t.payMax = s.payMax := by rfl)
    (hpix : t.pix = s.pix := by rfl) (hpay : t.pay = s.pay := by rfl) (hbit : t.bit = s.bit := by rfl) : t.Inv where
  params := by rw [hpixMax, hpayMax]; exact hs.params
  pixWf := by rw [hpix]; exact hs.pixWf
  payWf := by rw [hpay]; exact hs.payWf
  bitWf := by rw [hbit]; exact hs.bitWf
  pixWithin := by rw [hpix, hpixMax]; exact hs.pixWithin
  payWithin := by rw [hpay, hpayMax]; exact hs.payWithin
  bitWithin := by rw [hbit, bitMax_eq, hpixMax]; exact hs.bitWithin
  notBusyDone := hstatus

/-- A block with no cell written and no command in flight needs only its parameters' bounds. -/
theorem State.Inv.of_empty (hparams : paramsWf s.pixMax s.payMax = true) (hpix : s.pix = []) (hpay : s.pay = [])
    (hbit : s.bit = []) (hidle : s.busy = false) : s.Inv where
  params := hparams
  pixWf := by rw [hpix]; exact List.Pairwise.nil
  payWf := by rw [hpay]; exact List.Pairwise.nil
  bitWf := by rw [hbit]; exact List.Pairwise.nil
  pixWithin := by rw [hpix]; exact List.forall_mem_nil _
  payWithin := by rw [hpay]; exact List.forall_mem_nil _
  bitWithin := by rw [hbit]; exact List.forall_mem_nil _
  notBusyDone := fun hbusy => by rw [hidle] at hbusy; cases hbusy

theorem State.Inv.writePix (hs : s.Inv) {n : Nat} {vs : List Byte} (h : n + vs.length ≤ s.pixMax) :
    (s.writePix n vs).Inv :=
  { hs with pixWf := Memory.write_wf hs.pixWf n vs, pixWithin := Memory.write_within hs.pixWithin h }

theorem State.Inv.writePay (hs : s.Inv) {n : Nat} {vs : List Byte} (h : n + vs.length ≤ s.payMax) :
    (s.writePay n vs).Inv :=
  { hs with payWf := Memory.write_wf hs.payWf n vs, payWithin := Memory.write_within hs.payWithin h }

theorem State.Inv.writeBit (hs : s.Inv) {n : Nat} {vs : List Bit} (h : n + vs.length ≤ s.bitMax) :
    (s.writeBit n vs).Inv :=
  { hs with bitWf := Memory.write_wf hs.bitWf n vs, bitWithin := Memory.write_within hs.bitWithin h }

theorem State.Inv.setPixcnt (hs : s.Inv) (v : Word) : (s.setPixcnt v).Inv :=
  hs.of_same_memories hs.notBusyDone

theorem State.Inv.setPaylen (hs : s.Inv) (v : Word) : (s.setPaylen v).Inv :=
  hs.of_same_memories hs.notBusyDone

theorem State.Inv.setBitlen (hs : s.Inv) (v : Word) : (s.setBitlen v).Inv :=
  hs.of_same_memories hs.notBusyDone

theorem State.Inv.setHdrval (hs : s.Inv) (v : Word) : (s.setHdrval v).Inv :=
  hs.of_same_memories hs.notBusyDone

theorem State.Inv.setCtrl (hs : s.Inv) (v : Word) : (s.setCtrl v).Inv :=
  hs.of_same_memories hs.notBusyDone

/-- A STATUS write can only clear DONE (R26), which a busy block shows cleared already. -/
theorem State.Inv.clearDone (hs : s.Inv) (v : Word) : (s.clearDone v).Inv :=
  hs.of_same_memories fun hbusy => by
    obtain ⟨hdone, herrcode⟩ := hs.notBusyDone hbusy
    exact ⟨by simp [hdone], herrcode⟩

/-- Acceptance raises BUSY and clears DONE and ERRCODE in one step (R209). -/
theorem State.Inv.accept (hs : s.Inv) (w : Word) : (s.accept w).Inv :=
  hs.of_same_memories fun _ => ⟨rfl, rfl⟩

/-- Completion sets DONE and ERRCODE and clears BUSY in one step (R210). -/
theorem State.Inv.complete (hs : s.Inv) (c : ErrCode) : (s.complete c).Inv :=
  hs.of_same_memories fun hbusy => by rw [State.complete_busy] at hbusy; cases hbusy

theorem State.Inv.usedFiller (hs : s.Inv) : s.usedFiller.Inv :=
  hs.of_same_memories hs.notBusyDone

theorem State.Inv.popTurn (hs : s.Inv) : s.popTurn.Inv :=
  hs.of_same_memories hs.notBusyDone

theorem State.Inv.answered (hs : s.Inv) (l : List HostOp) (r : BusAnswer) : (s.answered l r).Inv :=
  hs.of_same_memories hs.notBusyDone

theorem State.Inv.halt (hs : s.Inv) (l : List HostOp) : (s.halt l).Inv :=
  hs.of_same_memories hs.notBusyDone

theorem State.Inv.resetStep (hs : s.Inv) : s.resetStep.Inv :=
  .of_empty hs.params rfl rfl rfl rfl

/-! ## The commands -/

theorem execBytesToBits_keeps_inv (hs : s.Inv) (h : execBytesToBits s = .next t) : t.Inv := by
  rcases execBytesToBits_cases h with ⟨rfl, -⟩ | ⟨-, hfits, rfl⟩
  · exact hs.complete _
  · have hlen : 0 + (bytesToBits (s.payTo s.opP)).length ≤ s.bitMax := by simpa using hfits
    exact ((hs.writeBit hlen).setBitlen _).complete _

theorem execBitsToBytes_keeps_inv (hs : s.Inv) (h : execBitsToBytes s = .next t) : t.Inv := by
  rcases execBitsToBytes_cases h with ⟨rfl, -⟩ | ⟨rfl, -⟩ | ⟨-, hmod, hfits, rfl⟩
  · exact hs.complete _
  · exact hs.complete _
  · have hlen : (packBits (s.bitTo s.opB)).length = s.opB / 8 :=
      packBits_length _ _ (by rw [State.bitTo_length]; omega)
    exact ((hs.writePay (by omega)).setPaylen _).complete _

/-- ENCODE_HEADER checks no length: its 32 bits fit into BIT by the bounds of the parameters (R7). -/
theorem execEncodeHeader_keeps_inv (hs : s.Inv) (h : execEncodeHeader s = .next t) : t.Inv := by
  obtain rfl := execEncodeHeader_cases h
  obtain ⟨hmin, -⟩ := paramsWf_iff.mp hs.params
  have hlen : 0 + (encodeHeader s.hdrval).length ≤ s.bitMax := by simpa [bitMax_eq] using hmin
  exact ((hs.writeBit hlen).setBitlen _).complete _

theorem execDecodeHeader_keeps_inv (hs : s.Inv) (h : execDecodeHeader s = .next t) : t.Inv := by
  rcases execDecodeHeader_cases h with ⟨rfl, -⟩ | ⟨rfl, -⟩ | ⟨-, -, rfl⟩
  · exact hs.complete _
  · exact hs.complete _
  · exact (hs.setHdrval _).complete _

theorem execFrame_keeps_inv (hs : s.Inv) (h : execFrame s = .next t) : t.Inv := by
  rcases execFrame_cases h with ⟨rfl, -⟩ | ⟨rfl, -⟩ | ⟨-, hN, hfits, rfl⟩
  · exact hs.complete _
  · exact hs.complete _
  · have hlen := frameBits_filler_length (s := s) (s.bitTo_length s.opB) hfits
    have hwrite := hs.writeBit (n := 0) (by rw [hlen, bitMax_eq]; omega)
    exact (((hwrite.setBitlen _).setHdrval _).usedFiller).complete _

theorem execUnframe_keeps_inv (hs : s.Inv) (h : execUnframe s = .next t) : t.Inv := by
  rcases execUnframe_cases h with ⟨rfl, -⟩ | ⟨rfl, -⟩ | ⟨rfl, -⟩ | ⟨hB, -, rfl⟩
  · exact hs.complete _
  · exact hs.complete _
  · exact hs.complete _
  · have hlen := framePayload_length (s.bitTo s.opB) s.bitHeader.toNat
    rw [State.bitTo_length] at hlen
    exact (((hs.writeBit (by omega)).setBitlen _).setHdrval _).complete _

theorem execCheck_keeps_inv (hs : s.Inv) (h : execCheck s = .next t) : t.Inv := by
  rcases execCheck_cases h with ⟨rfl, -⟩ | ⟨rfl, -⟩ | ⟨-, -, -, rfl⟩
  all_goals exact hs.complete _

theorem execEmbed_keeps_inv (hs : s.Inv) (h : execEmbed s = .next t) : t.Inv := by
  rcases execEmbed_cases h with ⟨rfl, -⟩ | ⟨rfl, -⟩ | ⟨hN, -, rfl⟩
  · exact hs.complete _
  · exact hs.complete _
  · have hlen : 0 + (embed (s.pixTo s.opN) (s.bitTo s.opN)).length ≤ s.pixMax := by
      simpa [embed_length] using hN
    exact (hs.writePix hlen).complete _

theorem execExtract_keeps_inv (hs : s.Inv) (h : execExtract s = .next t) : t.Inv := by
  rcases execExtract_cases h with ⟨rfl, -⟩ | ⟨hN, rfl⟩
  · exact hs.complete _
  · have hlen : 0 + (extract (s.pixTo s.opN)).length ≤ s.bitMax := by simpa [bitMax_eq] using hN
    exact ((hs.writeBit hlen).setBitlen _).complete _

theorem execEncode_keeps_inv (hs : s.Inv) (h : execEncode s = .next t) : t.Inv := by
  rcases execEncode_cases h with ⟨rfl, -⟩ | ⟨rfl, -⟩ | ⟨-, hN, hfits, rfl⟩
  · exact hs.complete _
  · exact hs.complete _
  · have hframe : s.encodedFrame.length = s.opN := State.encodedFrame_length hfits.le
    have hpix : 0 + (embed (s.pixTo s.opN) s.encodedFrame).length ≤ s.pixMax := by
      simpa [embed_length, hframe] using hN
    have hbit : 0 + s.encodedFrame.length ≤ s.bitMax := by simpa [hframe, bitMax_eq] using hN
    have hwrites := (hs.writePix hpix).writeBit hbit
    exact (((hwrites.setBitlen _).setHdrval _).usedFiller).complete _

/-- DECODE leaves N cells in BIT: the payload bits at the front, the extracted sequence behind them (R181). -/
theorem execDecode_keeps_inv (hs : s.Inv) (h : execDecode s = .next t) : t.Inv := by
  rcases execDecode_cases h with ⟨rfl, -⟩ | ⟨rfl, -⟩ | ⟨rfl, -⟩ | ⟨rfl, -⟩ | ⟨hN, hfits, hmod, hpay, rfl⟩
  · exact hs.complete _
  · exact hs.complete _
  · exact hs.complete _
  · exact hs.complete _
  · have hdec := State.decodedBits_length hfits
    have hbit : 0 + (s.decodedBits ++ (extract (s.pixTo s.opN)).drop s.pixHeader.toNat).length ≤ s.bitMax := by
      rw [List.length_append, hdec, List.length_drop, extract_length, State.pixTo_length, bitMax_eq]
      omega
    have hbytes : (packBits s.decodedBits).length = s.pixHeader.toNat / 8 := packBits_length _ _ (by omega)
    have hbits := ((hs.writeBit hbit).setBitlen s.pixHeader).setHdrval s.pixHeader
    have hwrites := hbits.writePay (n := 0) (vs := packBits s.decodedBits) (by rw [hbytes, Nat.zero_add]; exact hpay)
    exact (hwrites.setPaylen _).complete _

theorem exec_keeps_inv (hs : s.Inv) {i : Instr} (h : exec i s = .next t) : t.Inv := by
  cases i with
  | bytesToBits => exact execBytesToBits_keeps_inv hs h
  | bitsToBytes => exact execBitsToBytes_keeps_inv hs h
  | encodeHeader => exact execEncodeHeader_keeps_inv hs h
  | decodeHeader => exact execDecodeHeader_keeps_inv hs h
  | frame => exact execFrame_keeps_inv hs h
  | unframe => exact execUnframe_keeps_inv hs h
  | check => exact execCheck_keeps_inv hs h
  | embed => exact execEmbed_keeps_inv hs h
  | extract => exact execExtract_keeps_inv hs h
  | encode => exact execEncode_keeps_inv hs h
  | decode => exact execDecode_keeps_inv hs h

/-! ## The agents -/

theorem State.Inv.csrWrite (hs : s.Inv) (v : Word) (r : Csr) : (s.csrWrite v r).Inv := by
  cases r with
  | id | version | pixmax | paymax => exact hs
  | ctrl => exact hs.setCtrl v
  | status => exact hs.clearDone v
  | cmd => exact hs.accept v
  | pixcnt => exact hs.setPixcnt v
  | paylen => exact hs.setPaylen v
  | bitlen => exact hs.setBitlen v
  | hdrval => exact hs.setHdrval v

/-- A window write whose cells all exist (R59) adds no cell beyond the memory's limit. -/
theorem State.Inv.windowWrite (hs : s.Inv) {w : Window} {i : Nat} {n : Width} (v : Word)
    (h : i + n.bytes ≤ s.windowSize w) : (s.windowWrite w i n v).Inv := by
  cases w with
  | pixw => exact hs.writePix (by rw [dataBytes_length]; exact h)
  | payw => exact hs.writePay (by rw [dataBytes_length]; exact h)
  | bitw => exact hs.writeBit (by rw [extract_length, dataBytes_length]; exact h)

theorem State.Inv.transact (hs : s.Inv) (x : BusTxn) : (s.transact x).1.Inv := by
  cases x with
  | read a n => exact hs
  | write a n v =>
    rw [State.transact]
    rcases State.busWrite_cases s a n v with h | ⟨r, -, h⟩ | ⟨w, i, hcell, h⟩
    · rw [h]; exact hs
    · rw [h]; exact hs.csrWrite v r
    · obtain ⟨-, -, hfits, -⟩ := State.access_cell hcell
      rw [h]; exact hs.windowWrite v hfits

theorem State.Inv.hostStep (hs : s.Inv) : s.hostStep.Inv := by
  rcases State.hostStep_cases s with ⟨-, h⟩ | ⟨x, l, -, -, h⟩ | ⟨l, l', r, -, -, h⟩ | ⟨l, -, -, h⟩
  · rw [h]; exact hs
  · rw [h]; exact (hs.transact x).answered _ _
  · rw [h]; exact hs.answered _ _
  · rw [h]; exact hs.halt _

theorem engineStep_keeps_inv (hs : s.Inv) (h : engineStep s = .next t) : t.Inv := by
  rcases engineStep_cases h with ⟨-, rfl⟩ | ⟨c, i, -, -, hexec⟩ | ⟨c, e, -, -, rfl⟩
  · exact hs
  · exact exec_keeps_inv hs hexec
  · exact hs.complete _

theorem step_keeps_inv (hs : s.Inv) (h : step s = .next t) : t.Inv := by
  rcases step_cases h with ⟨-, hengine⟩ | ⟨-, rfl⟩ | ⟨-, rfl⟩
  · exact engineStep_keeps_inv hs.popTurn hengine
  · exact hs.popTurn.hostStep
  · exact hs.popTurn.resetStep

/-! ## The base case -/

/-- The types of the free values hold the bounds of R7. -/
theorem config_paramsWf : paramsWf Config.pixMax Config.payMax = true := by
  have hpix := Config.pixExtra.isLt
  have hpay := Config.payExtra.isLt
  rw [paramsWf_iff, Config.pixMax, Config.payMax]
  omega

/-! ## The obligations -/

/-- Settles O56: nothing is written and nothing is in flight, so only the parameters' bounds remain. -/
theorem powerOnStateInvariant : Obligations.PowerOnStateInvariant :=
  State.Inv.of_empty config_paramsWf rfl rfl rfl rfl

/-- Settles O57, by cases on the agent that moves, then on what its move can be. -/
theorem stepKeepsInvariant : Obligations.StepKeepsInvariant := by
  intro s t hs h
  exact step_keeps_inv hs h

end Sys2Proof.Machine
end

section
/-! PROOFS. The state family: what the commands leave of the state, what the host's other steps leave of the flags,
the external filler, and the registers ID, VERSION, PIXMAX, PAYMAX, CTRL and STATUS on the bus. -/

namespace Sys2Proof.Machine

variable {s t : State}

/-! ## What no command writes -/

theorem State.KeepsFixed.complete (h : s.KeepsFixed t) (c : ErrCode) : s.KeepsFixed (t.complete c) :=
  { h with }

theorem exec_keepsFixed {i : Instr} (h : exec i s = .next t) : s.KeepsFixed t := by
  obtain ⟨c, u, hexec, -, hkeep⟩ := exec_shape i s
  obtain rfl : u.complete c = t := by rw [hexec] at h; injection h
  exact hkeep.complete c

/-- Settles O13: every completion has the shape of `exec_shape`, and STATUS is no part of what stays fixed. -/
theorem commandsKeepFixedState : Obligations.CommandsKeepFixedState := by
  intro i s t h
  exact exec_keepsFixed h

/-! ## What a command does to the pixels -/

/-- EMBED and ENCODE alone write PIX (R162, R180). -/
theorem exec_pix_eq {i : Instr} (h : exec i s = .next t) (hembed : i ≠ .embed) (hencode : i ≠ .encode) :
    t.pix = s.pix := by
  cases i with
  | bytesToBits => rcases execBytesToBits_cases h with ⟨rfl, -⟩ | ⟨-, -, rfl⟩ <;> simp
  | bitsToBytes => rcases execBitsToBytes_cases h with ⟨rfl, -⟩ | ⟨rfl, -⟩ | ⟨-, -, -, rfl⟩ <;> simp
  | encodeHeader => obtain rfl := execEncodeHeader_cases h; simp
  | decodeHeader => rcases execDecodeHeader_cases h with ⟨rfl, -⟩ | ⟨rfl, -⟩ | ⟨-, -, rfl⟩ <;> simp
  | frame => rcases execFrame_cases h with ⟨rfl, -⟩ | ⟨rfl, -⟩ | ⟨-, -, -, rfl⟩ <;> simp
  | unframe => rcases execUnframe_cases h with ⟨rfl, -⟩ | ⟨rfl, -⟩ | ⟨rfl, -⟩ | ⟨-, -, rfl⟩ <;> simp
  | check => rcases execCheck_cases h with ⟨rfl, -⟩ | ⟨rfl, -⟩ | ⟨-, -, -, rfl⟩ <;> simp
  | embed => exact absurd rfl hembed
  | extract => rcases execExtract_cases h with ⟨rfl, -⟩ | ⟨-, rfl⟩ <;> simp
  | encode => exact absurd rfl hencode
  | decode =>
    rcases execDecode_cases h with ⟨rfl, -⟩ | ⟨rfl, -⟩ | ⟨rfl, -⟩ | ⟨rfl, -⟩ | ⟨-, -, -, -, rfl⟩ <;> simp

/-- A command leaves PIX as it is, or embeds one bit into each of the first PIXCNT pixels (R162, R180). -/
theorem exec_pix_cases {i : Instr} (h : exec i s = .next t) :
    t.pix = s.pix ∨
      ∃ f : List Bit, f.length = s.opN ∧ t.pix = (s.writePix 0 (embed (s.pixTo s.opN) f)).pix := by
  by_cases hembed : i = .embed
  · subst hembed
    rcases execEmbed_cases h with ⟨rfl, -⟩ | ⟨rfl, -⟩ | ⟨-, -, rfl⟩
    · exact .inl rfl
    · exact .inl rfl
    · exact .inr ⟨s.bitTo s.opN, s.bitTo_length s.opN, rfl⟩
  by_cases hencode : i = .encode
  · subst hencode
    rcases execEncode_cases h with ⟨rfl, -⟩ | ⟨rfl, -⟩ | ⟨-, -, hfits, rfl⟩
    · exact .inl rfl
    · exact .inl rfl
    · exact .inr ⟨s.encodedFrame, State.encodedFrame_length hfits.le, by simp⟩
  · exact .inl (exec_pix_eq h hembed hencode)

/-- A pixel after the embedding of `f` into the first PIXCNT pixels. -/
theorem State.pixCell_writePix_embed {f : List Bit} (hf : f.length = s.opN) (j : Nat) :
    (s.writePix 0 (embed (s.pixTo s.opN) f)).pixCell j =
      if h : j < f.length then embedByte (s.pixCell j) f[j] else s.pixCell j := by
  have hlen : (embed (s.pixTo s.opN) f).length = f.length := by rw [embed_length (by simp [hf]), State.pixTo_length, hf]
  rw [State.pixCell_writePix, if_pos (Nat.zero_le j), Nat.sub_zero]
  split
  case isTrue hj =>
    rw [List.getD_eq_getElem _ _ (hlen ▸ hj)]
    simp [embed]
  case isFalse hj => exact List.getD_eq_default _ _ (by omega)

/-- Settles O14: a command leaves PIX or embeds into its first PIXCNT pixels, and an embedding changes bit 0 only. -/
theorem commandsChangeOnlyPixelLsbs : Obligations.CommandsChangeOnlyPixelLsbs := by
  intro i s t h j
  have hepoch : t.epoch = s.epoch := (exec_keepsFixed h).epoch
  rcases exec_pix_cases h with hpix | ⟨f, hf, hpix⟩
  · have hcell : t.pixCell j = s.pixCell j := State.pixCell_congr hpix hepoch j
    exact ⟨fun k _ => by rw [hcell], fun _ => hcell⟩
  · have hcell := (State.pixCell_congr hpix hepoch j).trans (State.pixCell_writePix_embed hf j)
    constructor
    · intro k hk
      rw [hcell]
      split
      · rw [embedByte_getLsbD, if_neg (by omega)]
      · rfl
    · intro hj
      rw [hcell, dif_neg (by rw [hf]; exact Nat.not_lt.mpr hj)]

/-! ## The flags under the host's steps -/

/-- `t` has the command in flight, and with it BUSY, and the DONE and ERRCODE of `s` (R37). -/
def State.KeepsFlags (s t : State) : Prop := t.inFlight = s.inFlight ∧ t.done = s.done ∧ t.errcode = s.errcode

theorem State.csrWrite_keepsFlags (v : Word) {r : Csr} (hcmd : r ≠ .cmd) (hstatus : r ≠ .status) :
    s.KeepsFlags (s.csrWrite v r) := by
  cases r with
  | cmd => exact absurd rfl hcmd
  | status => exact absurd rfl hstatus
  | id | version | pixmax | paymax | ctrl | pixcnt | paylen | bitlen | hdrval => exact ⟨rfl, rfl, rfl⟩

/-- Only a write at the address of CMD or of STATUS reaches those registers, so every other transaction keeps the flags. -/
theorem State.transact_keepsFlags {x : BusTxn} (hcmd : ∀ n v, x ≠ .write 0x18#32 n v)
    (hstatus : ∀ n v, x ≠ .write 0x14#32 n v) : s.KeepsFlags (s.transact x).1 := by
  cases x with
  | read a n => exact ⟨rfl, rfl, rfl⟩
  | write a n v =>
    rw [State.transact]
    rcases State.busWrite_cases s a n v with h | ⟨r, haccess, h⟩ | ⟨w, i, -, h⟩
    · rw [h]; exact ⟨rfl, rfl, rfl⟩
    · obtain ⟨haddr, -⟩ := State.access_csr haccess
      rw [h]
      refine State.csrWrite_keepsFlags v ?_ ?_
      · rintro rfl
        obtain rfl : a = 0x18#32 := BitVec.eq_of_toNat_eq haddr
        exact hcmd n v rfl
      · rintro rfl
        obtain rfl : a = 0x14#32 := BitVec.eq_of_toNat_eq haddr
        exact hstatus n v rfl
    · rw [h]
      exact ⟨State.windowWrite_inFlight w i n v, State.windowWrite_done w i n v, State.windowWrite_errcode w i n v⟩

theorem State.hostStep_keepsFlags (hcmd : ∀ n v, s.hostOps.head? ≠ some (.txn (.write 0x18#32 n v)))
    (hstatus : ∀ n v, s.hostOps.head? ≠ some (.txn (.write 0x14#32 n v))) : s.KeepsFlags s.hostStep := by
  rcases State.hostStep_cases s with ⟨-, h⟩ | ⟨x, l, -, hops, h⟩ | ⟨l, l', r, -, -, h⟩ | ⟨l, -, -, h⟩
  · rw [h]; exact ⟨rfl, rfl, rfl⟩
  · rw [hops] at hcmd hstatus
    rw [h]
    exact State.transact_keepsFlags (fun n v hx => hcmd n v (by rw [hx]; rfl))
      (fun n v hx => hstatus n v (by rw [hx]; rfl))
  · rw [h]; exact ⟨rfl, rfl, rfl⟩
  · rw [h]; exact ⟨rfl, rfl, rfl⟩

theorem State.nextTurn_host (h : s.turns.head? = some .host ∨ (s.turns = [] ∧ s.busy = false)) :
    s.nextTurn = .host := by
  rcases h with h | ⟨hturns, hidle⟩
  · exact State.nextTurn_of_head h
  · simp [State.nextTurn, hturns, hidle]

theorem step_of_host (h : s.nextTurn = .host) : step s = .next s.popTurn.hostStep := by
  rw [step, h]

/-- Settles O16: such a step is the host's, and of its transactions only those two writes reach the flags. -/
theorem otherHostStepsKeepFlags : Obligations.OtherHostStepsKeepFlags := by
  intro s t h hturn hcmd hstatus
  obtain rfl : s.popTurn.hostStep = t := by rw [step_of_host (State.nextTurn_host hturn)] at h; injection h
  exact State.hostStep_keepsFlags (s := s.popTurn) hcmd hstatus

/-! ## The external filler -/

/-! CUR_FILL stays under the updates that FRAME and ENCODE make. -/

@[simp] theorem State.writePix_curFill (n : Nat) (vs : List Byte) : (s.writePix n vs).curFill = s.curFill := rfl
@[simp] theorem State.writeBit_curFill (n : Nat) (vs : List Bit) : (s.writeBit n vs).curFill = s.curFill := rfl
@[simp] theorem State.setBitlen_curFill (v : Word) : (s.setBitlen v).curFill = s.curFill := rfl
@[simp] theorem State.setHdrval_curFill (v : Word) : (s.setHdrval v).curFill = s.curFill := rfl

/-- The filler stands behind the header and the payload (R122). -/
theorem frameBits_getD_filler {p z : List Bit} {n : Nat} (hp : p.length = n) (i : Nat) (d : Bit) :
    (frameBits p z).getD (n + 32 + i) d = z.getD i d := by
  rw [frameBits, List.getD_append_right _ _ _ _ (by rw [List.length_append, encodeHeader_length, hp]; omega),
    List.length_append, encodeHeader_length, hp]
  congr 1
  omega

theorem State.filler_getD (hfill : s.curFill = true) {n i : Nat} (hi : i < n) (d : Bit) :
    (s.filler n).getD i d = Config.fillBit s.fillCount i := by
  simp [State.filler, hfill, drawFill, hi]

/-- A framed sequence written to BIT under the external filler: behind header and payload stands the draw (R126, R180). -/
theorem State.bitCell_writeBit_frameBits {u : State} {p : List Bit} {n i c : Nat} (hfill : s.curFill = true)
    (hp : p.length = n) (hi : n + 32 + i < c) :
    (u.writeBit 0 (frameBits p (s.filler (c - Config.hdrBits - n)))).bitCell (n + 32 + i) =
      Config.fillBit s.fillCount i := by
  rw [State.bitCell_writeBit, if_pos (Nat.zero_le _), Nat.sub_zero, frameBits_getD_filler hp,
    State.filler_getD hfill (by rw [hdrBits_eq]; omega)]

theorem execFrame_draws (hfill : s.curFill = true) (hok : t.errcode = .ok) (h : execFrame s = .next t) :
    t.fillCount = s.fillCount + 1 ∧ ∀ i, s.opB + 32 + i < s.opN →
      t.bitCell (s.opB + 32 + i) = Config.fillBit s.fillCount i := by
  rcases execFrame_cases h with ⟨rfl, -⟩ | ⟨rfl, -⟩ | ⟨-, -, -, rfl⟩
  · cases hok
  · cases hok
  · constructor
    · simp [hfill]
    · intro i hi
      simpa using State.bitCell_writeBit_frameBits hfill (s.bitTo_length s.opB) hi

theorem execEncode_draws (hfill : s.curFill = true) (hok : t.errcode = .ok) (h : execEncode s = .next t) :
    t.fillCount = s.fillCount + 1 ∧ ∀ i, 8 * s.opP + 32 + i < s.opN →
      t.bitCell (8 * s.opP + 32 + i) = Config.fillBit s.fillCount i := by
  rcases execEncode_cases h with ⟨rfl, -⟩ | ⟨rfl, -⟩ | ⟨-, -, -, rfl⟩
  · cases hok
  · cases hok
  · constructor
    · simp [hfill]
    · intro i hi
      have hlen : (bytesToBits (s.payTo s.opP)).length = 8 * s.opP := by rw [bytesToBits_length, State.payTo_length]
      simpa [State.encodedFrame] using State.bitCell_writeBit_frameBits hfill hlen hi

/-- Settles O55: both commands write the same framed sequence, whose last part is the filler. -/
theorem externalFillerIsDrawn : Obligations.ExternalFillerIsDrawn := by
  intro s t hfill hok
  exact ⟨execFrame_draws hfill hok, execEncode_draws hfill hok⟩

/-! ## The engine's step -/

theorem step_of_engine (h : s.nextTurn = .engine) : step s = engineStep s.popTurn := by
  rw [step, h]

theorem engineStep_of_decode_ok {c : InFlight} {i : Instr} (hc : s.inFlight = some c) (hi : decode c.word = .ok i) :
    engineStep s = exec i s := by
  simp only [engineStep, hc, hi]

/-- Settles O7: the turn is the engine's, and it completes the decoded command in flight. -/
theorem stepCompletesDecodedCommand : Obligations.StepCompletesDecodedCommand := by
  intro s c i hc hturn hi
  rw [step_of_engine (State.nextTurn_engine hc hturn)]
  exact engineStep_of_decode_ok (s := s.popTurn) hc hi

/-! ## Whole-word accesses of a CSR -/

/-- A CSR that is not locked out reads as its value (R61). -/
theorem State.transact_read_csr {r : Csr} (hlock : s.busy = true → (Target.csr r).locked = false) :
    s.transact (.read r.addr .word) = (s, .okData (s.csrRead r)) := by
  have haccess : s.access r.addr.toNat .word false = some (.csr r) := by
    rw [State.access_csr_word]
    simpa using hlock
  rw [State.transact, State.busRead, haccess]

/-- A writable CSR that is not locked out takes the word (R61). -/
theorem State.transact_write_csr {r : Csr} (hlock : s.busy = true → (Target.csr r).locked = false)
    (hwritable : (Target.csr r).writable = true) (v : Word) :
    s.transact (.write r.addr .word v) = (s.csrWrite v r, .ok) := by
  have haccess : s.access r.addr.toNat .word true = some (.csr r) := by
    rw [State.access_csr_word]
    simpa [hwritable] using hlock
  rw [State.transact, State.busWrite, haccess]

/-- A read-only CSR refuses every word (R55 (4), R58). -/
theorem State.transact_write_readOnly {r : Csr} (hreadOnly : (Target.csr r).writable = false) (v : Word) :
    s.transact (.write r.addr .word v) = (s, .busErr) := by
  have haccess : s.access r.addr.toNat .word true = none := by
    rw [State.access_csr_word]
    simp [hreadOnly]
  rw [State.transact, State.busWrite, haccess]

/-- Settles O24: the four registers are never locked out and never writable. -/
theorem readOnlyRegisters : Obligations.ReadOnlyRegisters := by
  intro s v
  exact ⟨State.transact_read_csr (r := .id) fun _ => rfl, State.transact_read_csr (r := .version) fun _ => rfl,
    State.transact_read_csr (r := .pixmax) fun _ => rfl, State.transact_read_csr (r := .paymax) fun _ => rfl,
    State.transact_write_readOnly (r := .id) rfl v, State.transact_write_readOnly (r := .version) rfl v,
    State.transact_write_readOnly (r := .pixmax) rfl v, State.transact_write_readOnly (r := .paymax) rfl v⟩

/-! ## CTRL and STATUS -/

/-- CTRL reads back the two stored bits of the written word, its bits 31:2 as 0 (R24). -/
theorem State.setCtrl_ctrlWord (v : Word) : (s.setCtrl v).ctrlWord = v &&& 3#32 := by
  apply BitVec.eq_of_toNat_eq
  have hmask : (v &&& 3#32).toNat = v.toNat % 4 := by
    rw [BitVec.toNat_and]
    exact Nat.and_two_pow_sub_one_eq_mod v.toNat 2
  rw [hmask, State.ctrlWord, State.setCtrl_fill, State.setCtrl_irqen, BitVec.toNat_ofNat]
  simp only [BitVec.getLsbD, Nat.toNat_testBit]
  omega

/-- Settles O25: CTRL is open while busy, and what a write stores is what the next read shows. -/
theorem controlRegisterWrite : Obligations.ControlRegisterWrite := by
  intro s v
  refine ⟨s.setCtrl v, State.transact_write_csr (r := .ctrl) (fun _ => rfl) rfl v, rfl, ?_⟩
  rw [← State.setCtrl_ctrlWord (s := s)]
  exact State.transact_read_csr (r := .ctrl) fun _ => rfl

/-- The fields of a word packed as STATUS is: bits 0, 1, 3:2, 31:8 and 7:4 (R26). -/
theorem statusFields : ∀ (c : Fin 16) (done busy : Bool),
    let r := BitVec.ofNat 32 (c.val * 16 + done.toNat * 2 + busy.toNat)
    r.getLsbD 0 = busy ∧ r.getLsbD 1 = done ∧ r.extractLsb' 2 2 = 0#2 ∧ r.extractLsb' 8 24 = 0#24 ∧
      r.extractLsb' 4 4 = BitVec.ofNat 4 c.val := by
  decide

theorem ErrCode.code_lt (c : ErrCode) : c.code < 16 := by
  cases c <;> decide

/-- Settles O26: STATUS is open while busy, a write to it is `clearDone`, and its word is packed from its fields. -/
theorem statusRegisterReadAndClear : Obligations.StatusRegisterReadAndClear := by
  intro s v
  obtain ⟨hbusy, hdone, hlow, hhigh, hcode⟩ := statusFields ⟨s.errcode.code, s.errcode.code_lt⟩ s.done s.busy
  refine ⟨State.transact_write_csr (r := .status) (fun _ => rfl) rfl v, s.statusWord,
    State.transact_read_csr (r := .status) fun _ => rfl, hbusy, hdone, hlow, hhigh, ?_⟩
  rw [State.statusWord, hcode]
  cases s.errcode <;> rfl

end Sys2Proof.Machine
end

section
/-! PROOFS. The memory family: every step answers, which transactions the bus refuses, what an accepted one reads or
stores, and which of them have side effects.

Refusals all go through `State.transact_refused`, the contrapositive of what an accepted transaction reaches; accepted
window accesses go through the access they decide (`State.access_idle_window`) and the cells they read or write. -/

namespace Sys2Proof.Machine

variable {s t : State}

/-! ## Every step answers a next state -/

theorem exec_answers_next (i : Instr) (s : State) : ∃ t, exec i s = .next t := by
  obtain ⟨c, u, hexec, -, -⟩ := exec_shape i s
  exact ⟨u.complete c, hexec⟩

theorem engineStep_answers_next (s : State) : ∃ t, engineStep s = .next t := by
  unfold engineStep
  split
  · exact ⟨s, rfl⟩
  · split
    · exact exec_answers_next _ s
    · exact ⟨s.complete .illegalCommand, raise_eq s _⟩

/-- Settles O17: the host's and the reset's moves are functions, and every completion of the engine answers. -/
theorem stepAlwaysAnswersNext : Obligations.StepAlwaysAnswersNext := by
  intro s
  unfold step
  split
  · exact engineStep_answers_next s.popTurn
  · exact ⟨s.popTurn.hostStep, rfl⟩
  · exact ⟨s.popTurn.resetStep, rfl⟩

/-- Settles O20: of the three things a write can do, only the first is answered BUSERR. -/
theorem busErrorChangesNothing : Obligations.BusErrorChangesNothing := by
  intro s x h
  exact State.transact_busErr h

/-! ## What an accepted transaction reaches -/

/-- The CSRs lie at multiples of 4 below 0x30, none of them at 0x1C (R20, R32). -/
theorem Csr.offset_bounds (r : Csr) :
    r.offset % 4 = 0 ∧ r.offset < 0x30 ∧ (r.offset < 0x1C ∨ 0x20 ≤ r.offset) := by
  cases r <;> decide

/-- From CMD on every register is locked out while a command is in flight (R60). -/
theorem Csr.locked_of_offset {r : Csr} (h : 0x18 ≤ r.offset) : (Target.csr r).locked = true := by
  revert h
  cases r <;> decide

/-- The window ranges are three adjacent blocks of 2^28 addresses (R52). -/
theorem Window.base_bounds (w : Window) : 0x10000000 ≤ w.base ∧ w.base ≤ 0x30000000 ∧ w.base % 0x10000000 = 0 := by
  cases w <;> decide

/-- The window ranges do not meet, so an address in one determines the window and the index. -/
theorem Window.eq_of_base_add_eq {w w' : Window} {i i' : Nat} (hi : i < 0x10000000) (hi' : i' < 0x10000000)
    (h : w.base + i = w'.base + i') : w = w' ∧ i = i' := by
  have hw := w.base_bounds
  have hw' := w'.base_bounds
  have hbase : w.base = w'.base := by omega
  refine ⟨?_, by omega⟩
  revert hbase
  cases w <;> cases w' <;> decide

theorem windowOf_range {a : Nat} {w : Window} (h : windowOf a = some w) :
    w.base ≤ a ∧ a < w.base + 0x10000000 := by
  unfold windowOf at h
  rw [windowSpan_eq] at h
  split at h
  · cases h; assumption
  · split at h
    · cases h; assumption
    · split at h
      · cases h; assumption
      · cases h

/-- A cell is reached only from within the range of its window (R52). -/
theorem State.access_cell_lt {a : Nat} {n : Width} {wr : Bool} {w : Window} {i : Nat}
    (h : s.access a n wr = some (.cell w i)) : i < 0x10000000 := by
  obtain ⟨htarget, -⟩ := State.access_some h
  unfold State.target at htarget
  split at htarget
  · simp at htarget
  · split at htarget
    case h_1 w' hw =>
      split at htarget
      · cases htarget
        have := windowOf_range hw
        omega
      · cases htarget
    case h_2 => cases htarget

/-- A transaction is refused when it reaches no CSR that is open to it, at its offset and a word wide, and no
existing cells, in the range of their window and aligned, of an idle block (R55, R58). -/
theorem State.transact_refused {x : BusTxn}
    (hcsr : ∀ r : Csr, x.addr.toNat = r.offset → x.width = .word →
      ¬ (s.busy = true → (Target.csr r).locked = false))
    (hcell : ∀ (w : Window) (i : Nat), x.addr.toNat = w.base + i → i < 0x10000000 → s.busy = false →
      ¬ (x.addr.toNat % x.width.bytes = 0 ∧ i + x.width.bytes ≤ s.windowSize w)) :
    s.transact x = (s, .busErr) := by
  apply State.transact_of_access_none
  intro wr
  cases h : s.access x.addr.toNat x.width wr with
  | none => rfl
  | some y =>
    exfalso
    cases y with
    | csr r =>
      obtain ⟨haddr, hwidth⟩ := State.access_csr h
      obtain ⟨-, -, hlock, -⟩ := State.access_some h
      exact hcsr r haddr hwidth hlock
    | cell w i =>
      obtain ⟨haddr, halign, hend, hidle⟩ := State.access_cell h
      exact hcell w i haddr (State.access_cell_lt h) hidle ⟨halign, hend⟩

/-! ## The refusals -/

/-- CMD, PIXCNT to HDRVAL and the windows answer BUSERR while a command is in flight (R60). -/
theorem State.transact_of_busy (hbusy : s.busy = true) {x : BusTxn}
    (h : (0x18 ≤ x.addr.toNat ∧ x.addr.toNat < 0x1C) ∨ (0x20 ≤ x.addr.toNat ∧ x.addr.toNat < 0x30) ∨
      (0x10000000 ≤ x.addr.toNat ∧ x.addr.toNat < 0x40000000)) : s.transact x = (s, .busErr) := by
  apply State.transact_refused
  · intro r haddr _ hlock
    have hlocked : (Target.csr r).locked = true := Csr.locked_of_offset (by omega)
    simp [hlock hbusy] at hlocked
  · intro w i _ _ hidle
    simp [hbusy] at hidle

/-- Settles O21: the open registers are those below CMD, of which CTRL and STATUS are writable. -/
theorem lockoutWhileBusy : Obligations.LockoutWhileBusy := by
  intro s hbusy
  refine ⟨fun x hx => State.transact_of_busy hbusy hx, ?_, ?_⟩
  · intro a ha
    have hopen : ∃ r : Csr, a = r.addr ∧ (Target.csr r).locked = false := by
      simp only [List.mem_cons, List.not_mem_nil, or_false] at ha
      rcases ha with rfl | rfl | rfl | rfl | rfl | rfl
      · exact ⟨.id, rfl, rfl⟩
      · exact ⟨.version, rfl, rfl⟩
      · exact ⟨.pixmax, rfl, rfl⟩
      · exact ⟨.paymax, rfl, rfl⟩
      · exact ⟨.ctrl, rfl, rfl⟩
      · exact ⟨.status, rfl, rfl⟩
    obtain ⟨r, rfl, hr⟩ := hopen
    exact ⟨s.csrRead r, State.transact_read_csr fun _ => hr⟩
  · intro a v ha
    simp only [List.mem_cons, List.not_mem_nil, or_false] at ha
    rcases ha with rfl | rfl
    · exact congrArg Prod.snd (State.transact_write_csr (r := .ctrl) (fun _ => rfl) rfl v)
    · exact congrArg Prod.snd (State.transact_write_csr (r := .status) (fun _ => rfl) rfl v)

/-- Settles O22: no CSR and no existing cell lies at such an address. -/
theorem unmappedAddressesAnswerBusErr : Obligations.UnmappedAddressesAnswerBusErr := by
  intro s x hx
  rw [bitMax_eq] at hx
  apply State.transact_refused
  · intro r haddr
    have hr := r.offset_bounds
    omega
  · intro w i haddr hi _ ⟨_, hend⟩
    have hn : 1 ≤ x.width.bytes := by cases x.width <;> decide
    cases w with
    | pixw => rw [windowSize_pixw] at hend; rw [pixw_base] at haddr; omega
    | payw => rw [windowSize_payw] at hend; rw [payw_base] at haddr; omega
    | bitw => rw [windowSize_bitw] at hend; rw [bitw_base] at haddr; omega

/-- Settles O30: the address determines window and index, so the failing check of R59 is that of the cell reached. -/
theorem windowShapeErrors : Obligations.WindowShapeErrors := by
  intro s w x i haddr hi hshape
  apply State.transact_refused
  · intro r hr
    have hoffset := r.offset_bounds
    have hbase := w.base_bounds
    omega
  · intro w' i' haddr' hi' _ ⟨halign, hend⟩
    obtain ⟨rfl, rfl⟩ := Window.eq_of_base_add_eq hi hi' (haddr.symm.trans haddr')
    omega

/-! ## CSR accesses -/

theorem State.transact_csr_shape {x : BusTxn} (haddr : x.addr.toNat < 0x1000)
    (hshape : x.width ≠ .word ∨ x.addr.toNat % 4 ≠ 0) : s.transact x = (s, .busErr) := by
  apply State.transact_refused
  · intro r hr hword
    have hoffset := r.offset_bounds
    rcases hshape with hwidth | halign
    · exact absurd hword hwidth
    · omega
  · intro w i hw
    have hbase := w.base_bounds
    omega

/-- CTRL has no field above bit 1 (R24). -/
theorem State.ctrlWord_reserved (s : State) : s.ctrlWord.extractLsb' 2 30 = 0#30 := by
  rw [State.ctrlWord]
  cases s.fill <;> cases s.irqen <;> decide

/-- Settles O23: an idle block locks no register out, and PIXCNT to HDRVAL are writable. -/
theorem csrAccessesAreWholeWords : Obligations.CsrAccessesAreWholeWords := by
  intro s
  obtain ⟨-, -, hlow, hhigh, -⟩ := statusFields ⟨s.errcode.code, s.errcode.code_lt⟩ s.done s.busy
  refine ⟨fun x => State.transact_csr_shape, ⟨s.ctrlWord_reserved, hlow, hhigh⟩, fun hidle => ?_⟩
  have hopen (r : Csr) : s.busy = true → (Target.csr r).locked = false := by simp [hidle]
  have hread (r : Csr) : s.transact (.read r.addr .word) = (s, .okData (s.csrRead r)) :=
    State.transact_read_csr (hopen r)
  refine ⟨hread, ⟨hread .cmd, hread .pixcnt, hread .paylen, hread .bitlen, hread .hdrval⟩, fun v => ?_⟩
  exact ⟨State.transact_write_csr (hopen .pixcnt) rfl v, State.transact_write_csr (hopen .paylen) rfl v,
    State.transact_write_csr (hopen .bitlen) rfl v, State.transact_write_csr (hopen .hdrval) rfl v⟩

/-! ## Side effects -/

theorem State.windowSize_congr (hpix : t.pixMax = s.pixMax) (hpay : t.payMax = s.payMax) :
    t.windowSize = s.windowSize := by
  funext w
  cases w with
  | pixw => exact hpix
  | payw => exact hpay
  | bitw => exact hpix

/-- The decision of a transaction depends on the parameters and on BUSY alone. -/
theorem State.access_congr (hpix : t.pixMax = s.pixMax) (hpay : t.payMax = s.payMax) (hbusy : t.busy = s.busy)
    (a : Nat) (n : Width) (wr : Bool) : t.access a n wr = s.access a n wr := by
  have hsize : t.windowSize = s.windowSize := State.windowSize_congr hpix hpay
  have htarget : t.target a = s.target a := by simp only [State.target, hsize]
  have hshape : t.legalShape a n = s.legalShape a n := by
    funext y
    cases y <;> simp only [State.legalShape, hsize]
  simp only [State.access, htarget, hshape, hbusy]

theorem State.transact_write_of_csr {a : Addr} {n : Width} {r : Csr} (h : s.access a.toNat n true = some (.csr r))
    (v : Word) : s.transact (.write a n v) = (s.csrWrite v r, .ok) := by
  rw [State.transact, State.busWrite, h]

theorem State.transact_write_of_cell {a : Addr} {n : Width} {w : Window} {i : Nat}
    (h : s.access a.toNat n true = some (.cell w i)) (v : Word) :
    s.transact (.write a n v) = (s.windowWrite w i n v, .ok) := by
  rw [State.transact, State.busWrite, h]

theorem State.transact_read_of_cell {a : Addr} {n : Width} {w : Window} {i : Nat}
    (h : s.access a.toNat n false = some (.cell w i)) :
    s.transact (.read a n) = (s, .okData (s.windowRead w i n)) := by
  rw [State.transact, State.busRead, h]

@[simp] theorem State.csrWrite_pixMax (v : Word) (r : Csr) : (s.csrWrite v r).pixMax = s.pixMax := by cases r <;> rfl
@[simp] theorem State.csrWrite_payMax (v : Word) (r : Csr) : (s.csrWrite v r).payMax = s.payMax := by cases r <;> rfl

/-- Only a CMD write raises BUSY (R209). -/
theorem State.csrWrite_busy {r : Csr} (hr : r ≠ .cmd) (v : Word) : (s.csrWrite v r).busy = s.busy := by
  cases r with
  | cmd => exact absurd rfl hr
  | id | version | pixmax | paymax | ctrl | status | pixcnt | paylen | bitlen | hdrval => rfl

@[simp] theorem State.windowWrite_busy (w : Window) (i : Nat) (n : Width) (v : Word) :
    (s.windowWrite w i n v).busy = s.busy := by cases w <;> rfl

theorem State.clearDone_again (v : Word) : (s.clearDone v).clearDone v = s.clearDone v := by
  simp [State.clearDone]

/-- Every register but CMD only stores, or clears what the first write has cleared already (R64). -/
theorem State.csrWrite_again {r : Csr} (hr : r ≠ .cmd) (v : Word) :
    (s.csrWrite v r).csrWrite v r = s.csrWrite v r := by
  cases r with
  | cmd => exact absurd rfl hr
  | status => exact State.clearDone_again v
  | id | version | pixmax | paymax | ctrl | pixcnt | paylen | bitlen | hdrval => rfl

theorem State.windowWrite_again (w : Window) (i : Nat) (n : Width) (v : Word) :
    (s.windowWrite w i n v).windowWrite w i n v = s.windowWrite w i n v := by
  cases w with
  | pixw => simp [State.windowWrite, State.writePix, Memory.write_again]
  | payw => simp [State.windowWrite, State.writePay, Memory.write_again]
  | bitw => simp [State.windowWrite, State.writeBit, Memory.write_again]

/-- A write that does not reach CMD is decided alike the second time, and then changes nothing more (R64). -/
theorem State.transact_write_again {a : Addr} (ha : a ≠ 0x18#32) (n : Width) (v : Word) :
    (s.transact (.write a n v)).1.transact (.write a n v) = s.transact (.write a n v) := by
  rcases State.busWrite_cases s a n v with h | ⟨r, haccess, -⟩ | ⟨w, i, haccess, -⟩
  · have hrefused : s.transact (.write a n v) = (s, .busErr) := h
    rw [hrefused, hrefused]
  · have hr : r ≠ .cmd := by
      rintro rfl
      exact ha (BitVec.eq_of_toNat_eq (State.access_csr haccess).1)
    have hagain : (s.csrWrite v r).access a.toNat n true = some (.csr r) := by
      rw [State.access_congr (csrWrite_pixMax v r) (csrWrite_payMax v r) (csrWrite_busy hr v), haccess]
    rw [State.transact_write_of_csr haccess, State.transact_write_of_csr hagain, State.csrWrite_again hr]
  · have hagain : (s.windowWrite w i n v).access a.toNat n true = some (.cell w i) := by
      rw [State.access_congr (windowWrite_pixMax w i n v) (windowWrite_payMax w i n v) (windowWrite_busy w i n v),
        haccess]
    rw [State.transact_write_of_cell haccess, State.transact_write_of_cell hagain, State.windowWrite_again]

theorem State.KeepsFlags.statusWord (h : s.KeepsFlags t) : t.statusWord = s.statusWord := by
  obtain ⟨hinFlight, hdone, herrcode⟩ := h
  simp only [State.statusWord, State.busy, hinFlight, hdone, herrcode]

/-- Settles O27: writes but CMD's are idempotent, those to neither CMD nor STATUS keep the flags, and the block that
has accepted a command is busy. -/
theorem accessSideEffects : Obligations.AccessSideEffects := by
  intro s a n v
  refine ⟨rfl, fun ha => State.transact_write_again ha n v, fun hcmd hstatus => ?_, fun hidle w => ?_⟩
  · have hflags : s.KeepsFlags (s.transact (.write a n v)).1 := by
      apply State.transact_keepsFlags
      · rintro n' v' ⟨⟩
        exact hcmd rfl
      · rintro n' v' ⟨⟩
        exact hstatus rfl
    exact ⟨hflags.statusWord, hflags.left⟩
  · have haccept : s.transact (.write 0x18#32 .word v) = (s.accept v, .ok) :=
      State.transact_write_csr (r := .cmd) (fun hbusy => by simp [hidle] at hbusy) rfl v
    rw [haccept]
    exact State.transact_of_busy rfl (.inl (by simp [BusTxn.addr]))

/-! ## Window reads -/

/-- A legal access of an idle block reaches its cells (R55). -/
theorem State.access_idle_window (hp : paramsWf s.pixMax s.payMax = true) (hidle : s.busy = false) {w : Window}
    {i a : Nat} {n : Width} (ha : a = w.base + i) (halign : a % n.bytes = 0) (hend : i + n.bytes ≤ s.windowSize w)
    (wr : Bool) : s.access a n wr = some (.cell w i) := by
  rw [State.access_window hp ha halign hend, hidle]
  rfl

/-- The least significant byte does not overlap the others, so the `or` of R63 is a sum. -/
theorem leWord_cons_toNat (b : Byte) (bs : List Byte) :
    (leWord (b :: bs)).toNat = (b.toNat + (leWord bs).toNat * 2 ^ 8) % 2 ^ 32 := by
  have hb : b.toNat < 2 ^ 8 := b.isLt
  have hor : (leWord bs <<< 8).toNat = 2 ^ 8 * ((leWord bs).toNat % 2 ^ 24) := by
    rw [BitVec.toNat_shiftLeft, Nat.shiftLeft_eq]
    omega
  rw [leWord, BitVec.toNat_or, hor, BitVec.toNat_setWidth, Nat.mod_eq_of_lt (by omega), Nat.or_comm,
    ← Nat.two_pow_add_eq_or_of_lt hb]
  omega

/-- The little-endian value as R56 writes it. -/
theorem leWord_map_range (n : Nat) (f : Nat → Byte) :
    leWord ((List.range n).map f) = BitVec.ofNat 32 (∑ k ∈ Finset.range n, (f k).toNat * 2 ^ (8 * k)) := by
  induction n generalizing f with
  | zero => rfl
  | succ n ih =>
    have hshift : ∑ k ∈ Finset.range n, (f (k + 1)).toNat * 2 ^ (8 * (k + 1)) =
        (∑ k ∈ Finset.range n, (f (k + 1)).toNat * 2 ^ (8 * k)) * 2 ^ 8 := by
      rw [Finset.sum_mul]
      exact Finset.sum_congr rfl fun k _ => by ring
    apply BitVec.eq_of_toNat_eq
    rw [List.range_succ_eq_map, List.map_cons, List.map_map, leWord_cons_toNat, ih, Finset.sum_range_succ', hshift,
      BitVec.toNat_ofNat, BitVec.toNat_ofNat]
    simp only [Function.comp_apply, Nat.succ_eq_add_one]
    omega

/-- The host sees a bit as the byte 0 or 1 (R62). -/
theorem bitByte_toNat (b : Bit) : ((BitVec.ofBool b).setWidth 8).toNat = b.toNat := by
  cases b <;> rfl

/-- Settles O28: the read reaches its cells, whose little-endian word is the sum. -/
theorem windowReadIsLittleEndian : Obligations.WindowReadIsLittleEndian := by
  intro s w a i n hp hidle ha halign hend
  rw [State.transact_read_of_cell (State.access_idle_window hp hidle ha halign hend false), State.windowRead,
    leWord_map_range]
  cases w with
  | pixw => rfl
  | payw => rfl
  | bitw => simp only [State.windowByte, bitByte_toNat]

/-! ## Window writes -/

theorem dataBytes_getD (n : Width) (v : Word) (k : Nat) (d : Byte) :
    (dataBytes n v).getD k d = if k < n.bytes then v.extractLsb' (8 * k) 8 else d := by
  split
  case isTrue hk =>
    rw [List.getD_eq_getElem _ _ (by rw [dataBytes_length]; exact hk), dataBytes_getElem]
  case isFalse hk => exact List.getD_eq_default _ _ (by rw [dataBytes_length]; omega)

/-- BITW stores bit 0 of each byte of the data (R57). -/
theorem extract_dataBytes_getD (n : Width) (v : Word) (k : Nat) (d : Bit) :
    (extract (dataBytes n v)).getD k d = if k < n.bytes then v.getLsbD (8 * k) else d := by
  split
  case isTrue hk =>
    rw [List.getD_eq_getElem _ _ (by rw [extract_length, dataBytes_length]; exact hk), extract_getElem,
      dataBytes_getElem]
    simp
  case isFalse hk => exact List.getD_eq_default _ _ (by rw [extract_length, dataBytes_length]; omega)

/-- An index at or after `i` lies within the `n` cells from `i` when its distance from `i` does. -/
theorem ite_le_ite_sub_lt {α : Type} (i j n : Nat) (x y : α) :
    (if i ≤ j then if j - i < n then x else y else y) = if i ≤ j ∧ j < i + n then x else y := by
  rw [← ite_and]
  exact if_congr (by omega) rfl rfl

theorem State.windowWrite_pixCell (i : Nat) (n : Width) (v : Word) (j : Nat) :
    (s.windowWrite .pixw i n v).pixCell j =
      if i ≤ j ∧ j < i + n.bytes then v.extractLsb' (8 * (j - i)) 8 else s.pixCell j := by
  rw [State.windowWrite, State.pixCell_writePix, dataBytes_getD, ite_le_ite_sub_lt]

theorem State.windowWrite_payCell (i : Nat) (n : Width) (v : Word) (j : Nat) :
    (s.windowWrite .payw i n v).payCell j =
      if i ≤ j ∧ j < i + n.bytes then v.extractLsb' (8 * (j - i)) 8 else s.payCell j := by
  rw [State.windowWrite, State.payCell_writePay, dataBytes_getD, ite_le_ite_sub_lt]

theorem State.windowWrite_bitCell (i : Nat) (n : Width) (v : Word) (j : Nat) :
    (s.windowWrite .bitw i n v).bitCell j =
      if i ≤ j ∧ j < i + n.bytes then v.getLsbD (8 * (j - i)) else s.bitCell j := by
  rw [State.windowWrite, State.bitCell_writeBit, extract_dataBytes_getD, ite_le_ite_sub_lt]

/-- Settles O29: the write reaches its cells, and `windowWrite` is an update of one memory alone. -/
theorem windowWriteStoresBytes : Obligations.WindowWriteStoresBytes := by
  intro s w a i n v hp hidle ha halign hend
  refine ⟨s.windowWrite w i n v,
    State.transact_write_of_cell (State.access_idle_window hp hidle ha halign hend true) v, ?_⟩
  cases w with
  | pixw => exact ⟨rfl, State.windowWrite_pixCell i n v⟩
  | payw => exact ⟨rfl, State.windowWrite_payCell i n v⟩
  | bitw => exact ⟨rfl, State.windowWrite_bitCell i n v⟩

/-- Settles O31: the window rules O28 and O29 for BITW, at the addresses that its size allows. -/
theorem bitWindowLayout : Obligations.BitWindowLayout := by
  intro s k hp hidle
  obtain ⟨-, hsize, -⟩ := paramsWf_iff.mp hp
  rw [bitMax_eq]
  have haddr (i : Nat) (hi : i < s.pixMax) : (BitVec.ofNat 32 (0x30000000 + i)).toNat = Window.bitw.base + i := by
    rw [BitVec.toNat_ofNat, bitw_base, Nat.mod_eq_of_lt (by omega)]
  refine ⟨fun hk => ⟨?_, fun v => ?_⟩, fun hk => ?_⟩
  · rw [windowReadIsLittleEndian s .bitw _ k .byte hp hidle (haddr k hk) (Nat.mod_one _) hk]
    cases h : s.bitCell k <;> simp [Width.bytes, h]
  · obtain ⟨t, htransact, -, hcell⟩ :=
      windowWriteStoresBytes s .bitw _ k .byte v hp hidle (haddr k hk) (Nat.mod_one _) hk
    rw [htransact, hcell k, if_pos ⟨le_refl k, Nat.lt_succ_self k⟩, Nat.sub_self]
  · have halign : (BitVec.ofNat 32 (0x30000000 + 4 * k)).toNat % Width.word.bytes = 0 := by
      rw [haddr (4 * k) (by omega), bitw_base, Width.bytes]
      omega
    rw [windowReadIsLittleEndian s .bitw _ (4 * k) .word hp hidle (haddr (4 * k) (by omega)) halign hk]
    simp [Width.bytes, Finset.sum_range_succ]

/-! ## A word read back by bytes -/

/-- A window's mapped bytes fit into its range (R7, R52). -/
theorem State.windowSize_le (hp : paramsWf s.pixMax s.payMax = true) (w : Window) : s.windowSize w ≤ 0x10000000 := by
  obtain ⟨-, hpix, -, hpay⟩ := paramsWf_iff.mp hp
  cases w with
  | pixw => exact hpix
  | payw => exact hpay
  | bitw => exact hpix

/-- Each byte of a write to PIXW or PAYW is the byte then seen at its address (R56, R57). -/
theorem State.windowWrite_windowByte {w : Window} (hw : w ≠ .bitw) (i : Nat) {n : Width} (v : Word) {k : Nat}
    (hk : k < n.bytes) : (s.windowWrite w i n v).windowByte w (i + k) = v.extractLsb' (8 * k) 8 := by
  cases w with
  | pixw =>
    rw [State.windowByte, State.windowWrite_pixCell, if_pos (by omega), Nat.add_sub_cancel_left]
  | payw =>
    rw [State.windowByte, State.windowWrite_payCell, if_pos (by omega), Nat.add_sub_cancel_left]
  | bitw => exact absurd rfl hw

theorem State.windowRead_byte (w : Window) (i : Nat) :
    s.windowRead w i .byte = (s.windowByte w i).setWidth 32 := by
  simp [State.windowRead, Width.bytes, leWord]

/-- Byte `k` of a word, by extraction and by shift and mask. -/
theorem setWidth_byte_eq_shift_and_mask (v : Word) (k : Nat) :
    (v.extractLsb' (8 * k) 8).setWidth 32 = (v >>> (8 * k)) &&& 0xFF#32 := by
  apply BitVec.eq_of_toNat_eq
  have hmask : ((v >>> (8 * k)) &&& 0xFF#32).toNat = (v.toNat >>> (8 * k)) % 2 ^ 8 := by
    rw [BitVec.toNat_and, BitVec.toNat_ushiftRight]
    exact Nat.and_two_pow_sub_one_eq_mod _ 8
  rw [hmask, BitVec.toNat_setWidth, BitVec.extractLsb'_toNat]
  omega

/-- Settles O32: the write and then the byte read reach their cells, and the byte read is the byte written. -/
theorem wordWriteReadsBackByBytes : Obligations.WordWriteReadsBackByBytes := by
  intro s w a i k v hp hidle hw ha hi hend hk
  obtain ⟨hbase, hbase', hbaseAlign⟩ := w.base_bounds
  have halign : a.toNat % Width.word.bytes = 0 := by rw [Width.bytes]; omega
  have hlimit := State.windowSize_le hp w
  have haddr : (a + BitVec.ofNat 32 k).toNat = w.base + (i + k) := by
    rw [BitVec.toNat_add, BitVec.toNat_ofNat, ha]
    omega
  have hread : (s.windowWrite w i .word v).access (a + BitVec.ofNat 32 k).toNat .byte false =
      some (.cell w (i + k)) := by
    apply State.access_idle_window (by simpa using hp) (by simpa using hidle) haddr (Nat.mod_one _)
    rw [State.windowSize_congr (State.windowWrite_pixMax w i .word v) (State.windowWrite_payMax w i .word v)]
    exact Nat.lt_of_lt_of_le (Nat.add_lt_add_left hk i) hend
  rw [State.transact_write_of_cell (State.access_idle_window hp hidle ha halign hend true),
    State.transact_read_of_cell hread, State.windowRead_byte, State.windowWrite_windowByte hw i v hk,
    setWidth_byte_eq_shift_and_mask]

end Sys2Proof.Machine
end

section
/-! PROOFS. The encoding family: the decoder and the encoder agree, which words are ILLEGAL, and the host lines `cmd`
and `halt`.

A word is determined by its two fields, so every claim about `decode` is one about RSVD and OP; the opcode map is read
once, in `decodeOp_eq_ok_iff` and `exists_opcode_eq_iff`. -/

namespace Sys2Proof

/-! ## The fields of a word -/

theorem opField_eq_mod (w : Word) : opField w = w.toNat % 256 := by
  rw [opField, BitVec.extractLsb'_toNat, Nat.shiftRight_zero]

theorem rsvdField_eq_div (w : Word) : rsvdField w = w.toNat / 256 := by
  rw [rsvdField, BitVec.extractLsb'_toNat, Nat.shiftRight_eq_div_pow]
  omega

/-- The fields RSVD and OP cover the word (R80). -/
theorem word_ext_fields {w v : Word} (hrsvd : rsvdField w = rsvdField v) (hop : opField w = opField v) : w = v := by
  rw [rsvdField_eq_div, rsvdField_eq_div] at hrsvd
  rw [opField_eq_mod, opField_eq_mod] at hop
  apply BitVec.eq_of_toNat_eq
  omega

/-- The laws of each command's word (`Laws.EncodedWord`), for every command. -/
theorem encodedWord (i : Instr) : Laws.EncodedWord.Statement i := by
  cases i with
  | bytesToBits => exact Laws.EncodedWord.bytesToBits
  | bitsToBytes => exact Laws.EncodedWord.bitsToBytes
  | encodeHeader => exact Laws.EncodedWord.encodeHeader
  | decodeHeader => exact Laws.EncodedWord.decodeHeader
  | frame => exact Laws.EncodedWord.frame
  | unframe => exact Laws.EncodedWord.unframe
  | check => exact Laws.EncodedWord.check
  | embed => exact Laws.EncodedWord.embed
  | extract => exact Laws.EncodedWord.extract
  | encode => exact Laws.EncodedWord.encode
  | decode => exact Laws.EncodedWord.decode

/-! ## The opcode map -/

theorem decodeOp_opcode (i : Instr) : decodeOp (opcode i) = .ok i := by cases i <;> rfl

/-- No two rows of the opcode map name the same command, and every row is that command's (R81). -/
theorem decodeOp_eq_ok_iff {n : Nat} {i : Instr} : decodeOp n = .ok i ↔ n = opcode i := by
  constructor
  · intro h
    unfold decodeOp at h
    split at h <;> cases h <;> rfl
  · rintro rfl
    exact decodeOp_opcode i

/-- The assigned operation codes are 0x01 to 0x0B, with no gap (R81). -/
theorem exists_opcode_eq_iff (n : Nat) : (∃ i, n = opcode i) ↔ 0x01 ≤ n ∧ n ≤ 0x0B := by
  constructor
  · rintro ⟨i, rfl⟩
    obtain ⟨-, -, hlow, hhigh⟩ := encodedWord i
    exact ⟨hlow, hhigh⟩
  · rintro ⟨hlow, hhigh⟩
    interval_cases n
    exacts [⟨.bytesToBits, rfl⟩, ⟨.bitsToBytes, rfl⟩, ⟨.encodeHeader, rfl⟩, ⟨.decodeHeader, rfl⟩, ⟨.frame, rfl⟩,
      ⟨.unframe, rfl⟩, ⟨.check, rfl⟩, ⟨.embed, rfl⟩, ⟨.extract, rfl⟩, ⟨.encode, rfl⟩, ⟨.decode, rfl⟩]

/-! ## The decoder -/

theorem decode_eq_ok_iff_fields {w : Word} {i : Instr} :
    decode w = .ok i ↔ rsvdField w = 0 ∧ opField w = opcode i := by
  unfold decode
  split
  next hrsvd => simp [hrsvd]
  next hrsvd => simpa [not_not.mp hrsvd] using decodeOp_eq_ok_iff

theorem decode_encode (i : Instr) : decode (encode i) = .ok i := by
  obtain ⟨hrsvd, hop, -, -⟩ := encodedWord i
  exact decode_eq_ok_iff_fields.mpr ⟨hrsvd, hop⟩

/-- Two words that decode to the same command have the same fields. -/
theorem decode_eq_ok_iff {w : Word} {i : Instr} : decode w = .ok i ↔ w = encode i := by
  constructor
  · intro h
    obtain ⟨hrsvd, hop⟩ := decode_eq_ok_iff_fields.mp h
    obtain ⟨hrsvd', hop', -, -⟩ := encodedWord i
    exact word_ext_fields (hrsvd.trans hrsvd'.symm) (hop.trans hop'.symm)
  · rintro rfl
    exact decode_encode i

/-- The decoder is total: it refuses a word exactly where it decodes it to no command (R82). -/
theorem decode_refuses_iff (w : Word) : (∃ e, decode w = .error e) ↔ ¬ ∃ i, decode w = .ok i := by
  cases decode w with
  | ok i => simp
  | error e => simp

/-! ## The obligations on words -/

/-- Settles O5: a word that decodes to a command has the fields of that command's word, and the fields determine it. -/
theorem decodeAgreesWithEncode : Obligations.DecodeAgreesWithEncode := by
  intro w i
  exact decode_eq_ok_iff

/-- Settles O6: the words that are not ILLEGAL have RSVD zero and an assigned OP. -/
theorem illegalWordsAreTheOthers : Obligations.IllegalWordsAreTheOthers := by
  intro w
  have hlegal : (∃ i, decode w = .ok i) ↔ rsvdField w = 0 ∧ 0x01 ≤ opField w ∧ opField w ≤ 0x0B := by
    simp only [decode_eq_ok_iff_fields, exists_and_left, exists_opcode_eq_iff]
  rw [decode_refuses_iff, hlegal, rsvdField_eq_div, opField_eq_mod]
  omega

/-- Settles O4: the eleven words are the encodings of the commands. -/
theorem opcodeMapWords : Obligations.OpcodeMapWords :=
  ⟨decode_encode .bytesToBits, decode_encode .bitsToBytes, decode_encode .encodeHeader, decode_encode .decodeHeader,
    decode_encode .frame, decode_encode .unframe, decode_encode .check, decode_encode .embed, decode_encode .extract,
    decode_encode .encode, decode_encode .decode⟩

end Sys2Proof

namespace Sys2Proof.Machine

variable {s t : State}

/-! ## One step of a host program -/

theorem State.popTurn_of_nil (h : s.turns = []) : s.popTurn = s := by
  rw [State.popTurn, h, List.tail_nil, ← h]

/-- With no turn listed an idle block's step is the host's (log entry 1). -/
theorem step_of_idle (hidle : s.busy = false) (hturns : s.turns = []) : step s = .next s.hostStep := by
  rw [step_of_host (State.nextTurn_host (.inr ⟨hturns, hidle⟩)), State.popTurn_of_nil hturns]

theorem State.hostStep_of_txn {x : BusTxn} {l : List HostOp} (hrun : s.halted = false)
    (hops : s.hostOps = .txn x :: l) : s.hostStep = (s.transact x).1.answered l (s.transact x).2 := by
  simp [State.hostStep, hrun, hops]

theorem State.hostStep_of_halt {l : List HostOp} (hrun : s.halted = false) (hops : s.hostOps = .halt :: l) :
    s.hostStep = s.halt l := by
  simp [State.hostStep, hrun, hops]

@[simp] theorem State.withHostProgram_busy (s : State) (p : List HostLine) : (s.withHostProgram p).busy = s.busy := rfl

/-- The line `cmd m` has the word of `m` accepted (R89, R209). -/
theorem step_of_cmd_line (m : Instr) (hidle : s.busy = false) (hturns : s.turns = []) :
    step (s.withHostProgram [.cmd m]) = .next (((s.withHostProgram []).accept (encode m)).answered [] .ok) := by
  have haccept : (s.withHostProgram [.cmd m]).transact (.write Csr.cmd.addr .word (encode m)) =
      ((s.withHostProgram [.cmd m]).accept (encode m), .ok) :=
    State.transact_write_csr (r := .cmd) (by simp [hidle]) rfl (encode m)
  rw [step_of_idle (s := s.withHostProgram [.cmd m]) hidle hturns, State.hostStep_of_txn rfl rfl, haccept]
  rfl

/-- The line `halt` halts the host (R89). -/
theorem step_of_halt_line (p : List HostLine) (hidle : s.busy = false) (hturns : s.turns = []) :
    step (s.withHostProgram (.halt :: p)) = .next ((s.withHostProgram (.halt :: p)).halt (assemble p)) := by
  rw [step_of_idle (s := s.withHostProgram (.halt :: p)) hidle hturns, State.hostStep_of_halt rfl rfl]
  rfl

theorem core_run_one (s : State) : core.run 1 s = step s := by
  obtain ⟨t, h⟩ := stepAlwaysAnswersNext s
  exact (core_run_succ h 0).trans h.symm

/-! ## Which steps halt the host -/

theorem engineStep_keeps_halted (h : engineStep s = .next t) : t.halted = s.halted := by
  rcases engineStep_cases h with ⟨-, rfl⟩ | ⟨c, i, -, -, hexec⟩ | ⟨c, e, -, -, rfl⟩
  · rfl
  · exact (exec_keepsFixed hexec).halted
  · exact rfl

theorem State.hostStep_halted_iff (s : State) :
    s.hostStep.halted = true ↔ s.halted = true ∨ s.hostOps.head? = some .halt := by
  rcases s.hostStep_cases with ⟨hnone, h⟩ | ⟨x, l, hrun, hops, h⟩ | ⟨l, l', r, hrun, hops, h⟩ | ⟨l, hrun, hops, h⟩
  · rcases hnone with hhalted | hops
    · simp [hhalted]
    · simp [h, hops]
  · simp [h, hrun, hops]
  · simp [h, hrun, hops]
  · simp [h, hops]

/-- Of the three agents only the host halts itself. -/
theorem step_halted_iff (h : step s = .next t) :
    t.halted = true ↔ s.halted = true ∨ (s.nextTurn = .host ∧ s.hostOps.head? = some .halt) := by
  rcases step_cases h with ⟨hturn, hengine⟩ | ⟨hturn, rfl⟩ | ⟨hturn, rfl⟩
  · simp [hturn, engineStep_keeps_halted hengine]
  · simp [hturn, State.hostStep_halted_iff]
  · simp [hturn]

/-- R263: the host has halted and nothing is in flight. -/
theorem State.ended_iff (s : State) : s.ended = true ↔ s.halted = true ∧ s.inFlight = none := by
  simp [State.ended, State.busy]

/-- A halt ends the run at once where the block is idle. -/
theorem State.halt_ended (l : List HostOp) : (s.halt l).ended = !s.busy := rfl

/-! ## The obligation on host lines -/

/-- Settles O19: `cmd m` is an acceptance and then the engine's completion of `m`; `halt` is the one host operation
that sets `halted`, which no other agent's step changes. -/
theorem hostLinesCmdAndHalt : Obligations.HostLinesCmdAndHalt := by
  refine ⟨fun m s hidle hturns => ?_, fun p s hidle hturns => ?_, fun s t => step_halted_iff,
    fun s hhalted hturn => ?_, State.ended_iff⟩
  · have hcomplete : step (((s.withHostProgram []).accept (encode m)).answered [] .ok) =
        exec m (((s.withHostProgram []).accept (encode m)).answered [] .ok).popTurn :=
      stepCompletesDecodedCommand _ _ m rfl (.inr hturns) (decode_encode m)
    rw [core_run_succ (step_of_cmd_line m hidle hturns), core_run_one, hcomplete]
    exact congrArg (exec m) (State.popTurn_of_nil hturns)
  · exact ⟨_, step_of_halt_line p hidle hturns, by simp [State.halt_ended, hidle]⟩
  · rw [step_of_host hturn, State.hostStep_of_halted (s := s.popTurn) hhalted]
    rfl

end Sys2Proof.Machine
end

section
/-! PROOFS. The BitConverter family: the two conversions as functions of sequences, and BYTES_TO_BITS and BITS_TO_BYTES.

Either command, when it succeeds, leaves BIT holding the bits of PAY: a step from `s` to `t` makes
`t.bitTo (8 * s.opP) = bytesToBits (s.payTo s.opP)` for BYTES_TO_BITS and
`s.bitTo (8 * t.opP) = bytesToBits (t.payTo t.opP)` for BITS_TO_BYTES. What the statements say of single cells, and
that the second command undoes the first, is read off these two equations. -/

namespace Sys2Proof.Machine

variable {s t : State}

/-! ## The conversions of sequences -/

theorem bitsToBytes_of_whole {b : List Bit} (h : b.length % 8 = 0) : bitsToBytes b = .ok (packBits b) :=
  if_neg (not_not_intro h)

theorem bitsToBytes_of_ragged {b : List Bit} (h : b.length % 8 ≠ 0) : bitsToBytes b = .error .malformedLength :=
  if_pos h

theorem bytesToBits_injective : Function.Injective bytesToBits :=
  Function.LeftInverse.injective packBits_bytesToBits

/-- The byte of eight bits as the sum that R101 writes. -/
theorem bitsByte_eq_sum (f : Nat → Bit) :
    bitsByte (f 0) (f 1) (f 2) (f 3) (f 4) (f 5) (f 6) (f 7) =
      BitVec.ofNat 8 (∑ k ∈ Finset.range 8, (f k).toNat * 2 ^ (7 - k)) := by
  rw [bitsByte]
  congr 1
  simp only [Finset.sum_range_succ, Finset.sum_range_zero]
  omega

theorem byte_eq_sum_bits (x : Byte) :
    x = BitVec.ofNat 8 (∑ k ∈ Finset.range 8, (x.getLsbD (7 - k)).toNat * 2 ^ (7 - k)) :=
  (bitsByte_byteBits x).symm.trans (bitsByte_eq_sum fun k => x.getLsbD (7 - k))

/-- Byte `j` of a packed sequence is the sum of its bits, which are elements `8j` to `8j + 7` of the sequence (R101). -/
theorem packBits_getElem? {n : Nat} {b : List Bit} (h : b.length = 8 * n) {j : Nat} (hj : j < n) :
    (packBits b)[j]? =
      some (BitVec.ofNat 8 (∑ k ∈ Finset.range 8, (b.getD (8 * j + k) false).toNat * 2 ^ (7 - k))) := by
  have hlen : j < (packBits b).length := by rw [packBits_length n b h]; exact hj
  have hbit (k : Nat) (hk : k ∈ Finset.range 8) : (packBits b)[j].getLsbD (7 - k) = b.getD (8 * j + k) false := by
    rw [← packBits_getLsbD h hj (Finset.mem_range.mp hk) 0#8 false, List.getD_eq_getElem _ _ hlen]
  rw [List.getElem?_eq_getElem hlen, byte_eq_sum_bits (packBits b)[j]]
  congr 2
  exact Finset.sum_congr rfl fun k hk => by rw [hbit k hk]

/-- Settles O35: the elements by byte and bit, a bit of a byte being `Nat.testBit` of its value. -/
theorem bytesToBitsElements : Obligations.BytesToBitsElements := by
  intro s
  refine ⟨bytesToBits_length s, fun j k hj hk => ?_⟩
  rw [bytesToBits_getElem? s j k hk, List.getElem?_eq_getElem hj]
  rfl

/-- Settles O36: a sequence of whole bytes packs, and each byte is the sum of its eight bits. -/
theorem bitsToBytesValues : Obligations.BitsToBytesValues := by
  intro b
  refine ⟨bitsToBytes_of_ragged, fun h => ⟨packBits b, bitsToBytes_of_whole h, ?_, fun j hj => ?_⟩⟩
  · exact packBits_length _ _ (by omega)
  · exact packBits_getElem? (by omega) hj

/-! ## Cells and slices -/

/-- Cells behind the last one written stay. -/
theorem State.bitCell_writeBit_of_le {vs : List Bit} {i : Nat} (h : vs.length ≤ i) :
    (s.writeBit 0 vs).bitCell i = s.bitCell i := by
  rw [State.bitCell_writeBit, if_pos (Nat.zero_le i), Nat.sub_zero, List.getD_eq_default _ _ h]

theorem State.payCell_writePay_of_le {vs : List Byte} {i : Nat} (h : vs.length ≤ i) :
    (s.writePay 0 vs).payCell i = s.payCell i := by
  rw [State.payCell_writePay, if_pos (Nat.zero_le i), Nat.sub_zero, List.getD_eq_default _ _ h]

/-- A slice of BIT depends on the memory BIT and the reset draws alone. -/
theorem State.bitTo_congr (h : t.bit = s.bit) (hepoch : t.epoch = s.epoch) (n : Nat) : t.bitTo n = s.bitTo n :=
  List.map_congr_left fun i _ => State.bitCell_congr h hepoch i

theorem State.payTo_congr (h : t.pay = s.pay) (hepoch : t.epoch = s.epoch) (n : Nat) : t.payTo n = s.payTo n :=
  List.map_congr_left fun i _ => State.payCell_congr h hepoch i

theorem State.payCell_of_payTo_eq {n j : Nat} (h : t.payTo n = s.payTo n) (hj : j < n) : t.payCell j = s.payCell j :=
  List.map_inj_left.mp h j (List.mem_range.mpr hj)

/-- Where BIT holds the bits of PAY, cell `8j + k` of BIT is bit `7 - k` of cell `j` of PAY (R100). -/
theorem State.bitCell_of_bitTo_eq {n : Nat} (h : t.bitTo (8 * n) = bytesToBits (s.payTo n)) {j k : Nat} (hj : j < n)
    (hk : k < 8) : t.bitCell (8 * j + k) = (s.payCell j).getLsbD (7 - k) := by
  have helem := bytesToBits_getElem? (s.payTo n) j k hk
  rw [← h, List.getElem?_eq_getElem (by rw [State.bitTo_length]; omega),
    List.getElem?_eq_getElem (by rw [State.payTo_length]; exact hj)] at helem
  simpa using helem

/-! ## BYTES_TO_BITS -/

/-- A length that BIT can hold is not cut by its register (R7, R9). -/
theorem State.toNat_ofNat_of_le_bitMax (hp : paramsWf s.pixMax s.payMax = true) {n : Nat} (h : n ≤ s.bitMax) :
    (BitVec.ofNat 32 n).toNat = n := by
  obtain ⟨-, hsize, -⟩ := paramsWf_iff.mp hp
  rw [bitMax_eq] at h
  rw [BitVec.toNat_ofNat, Nat.mod_eq_of_lt (by omega)]

theorem execBytesToBits_of_too_long (h : s.payMax < s.opP ∨ s.bitMax < 8 * s.opP) :
    execBytesToBits s = .next (s.onlyStatus .lengthRange) := by
  obtain ⟨t, ht⟩ : ∃ t, execBytesToBits s = .next t := exec_answers_next .bytesToBits s
  rcases execBytesToBits_cases ht with ⟨rfl, -⟩ | ⟨hpay, hbit, -⟩
  · exact ht
  · omega

theorem execBytesToBits_of_fits (hpay : s.opP ≤ s.payMax) (hbit : 8 * s.opP ≤ s.bitMax) :
    execBytesToBits s = .next (((s.writeBit 0 (bytesToBits (s.payTo s.opP))).setBitlen
      (BitVec.ofNat 32 (8 * s.opP))).complete .ok) := by
  rw [execBytesToBits, if_neg (Nat.not_lt.mpr hpay), if_neg (Nat.not_lt.mpr hbit), commit_eq]

/-- After BYTES_TO_BITS the bit sequence is that of the payload (R102). -/
theorem execBytesToBits_bitTo (hp : paramsWf s.pixMax s.payMax = true) (h : execBytesToBits s = .next t)
    (hok : t.errcode = .ok) : t.opB = 8 * s.opP ∧ t.bitTo (8 * s.opP) = bytesToBits (s.payTo s.opP) := by
  rcases execBytesToBits_cases h with ⟨rfl, -⟩ | ⟨-, hfits, ht⟩
  · cases hok
  · have hlen : t.opB = 8 * s.opP := by
      rw [State.opB, ht, State.complete_bitlen, State.setBitlen_bitlen, State.toNat_ofNat_of_le_bitMax hp hfits]
    have hbit : t.bit = (s.writeBit 0 (bytesToBits (s.payTo s.opP))).bit := by simp [ht]
    have hepoch : t.epoch = (s.writeBit 0 (bytesToBits (s.payTo s.opP))).epoch := by simp [ht]
    exact ⟨hlen, by rw [State.bitTo_congr hbit hepoch, State.bitTo_writeBit _ (by simp)]⟩

/-- Settles O44: the two checks, then one write of BIT and one of BITLEN, so that BIT holds the bits of PAY. -/
theorem bytesToBitsCommand : Obligations.BytesToBitsCommand := by
  refine ⟨decode_encode .bytesToBits, fun s => ⟨fun h => execBytesToBits_of_too_long (.inl h),
    fun h => execBytesToBits_of_too_long (.inr h), fun hpay hbit hp => ?_⟩⟩
  have hexec := execBytesToBits_of_fits hpay hbit
  obtain ⟨hlen, hbits⟩ := execBytesToBits_bitTo hp hexec rfl
  refine ⟨_, hexec, exec_keepsFixed (i := .bytesToBits) hexec, ⟨rfl, rfl, rfl⟩, hlen,
    fun j k => State.bitCell_of_bitTo_eq hbits, fun i hi => ?_, ?_⟩
  · rw [State.complete_bitCell, State.setBitlen_bitCell,
      State.bitCell_writeBit_of_le (by rw [bytesToBits_length, State.payTo_length]; exact hi)]
  · simp

/-! ## BITS_TO_BYTES -/

theorem execBitsToBytes_of_too_long (hbit : s.bitMax < s.opB) :
    execBitsToBytes s = .next (s.onlyStatus .lengthRange) := by
  rw [execBitsToBytes, if_pos hbit, raise_eq, onlyStatus_eq]

theorem execBitsToBytes_of_ragged (hbit : s.opB ≤ s.bitMax) (hragged : s.opB % 8 ≠ 0) :
    execBitsToBytes s = .next (s.onlyStatus .malformedLength) := by
  rw [execBitsToBytes, if_neg (Nat.not_lt.mpr hbit), if_pos hragged, raise_eq, onlyStatus_eq]

theorem execBitsToBytes_of_payload_too_long (hbit : s.opB ≤ s.bitMax) (hwhole : s.opB % 8 = 0)
    (hpay : s.payMax < s.opB / 8) : execBitsToBytes s = .next (s.onlyStatus .lengthRange) := by
  rw [execBitsToBytes, if_neg (Nat.not_lt.mpr hbit), if_neg (not_not_intro hwhole), if_pos hpay, raise_eq,
    onlyStatus_eq]

theorem execBitsToBytes_of_fits (hbit : s.opB ≤ s.bitMax) (hwhole : s.opB % 8 = 0) (hpay : s.opB / 8 ≤ s.payMax) :
    execBitsToBytes s = .next (((s.writePay 0 (packBits (s.bitTo s.opB))).setPaylen
      (BitVec.ofNat 32 (s.opB / 8))).complete .ok) := by
  rw [execBitsToBytes, if_neg (Nat.not_lt.mpr hbit), if_neg (not_not_intro hwhole), if_neg (Nat.not_lt.mpr hpay),
    commit_eq]

/-- A bit sequence whose length is a multiple of 8 is one of whole bytes. -/
theorem State.bitTo_length_of_whole (hwhole : s.opB % 8 = 0) : (s.bitTo s.opB).length = 8 * (s.opB / 8) := by
  rw [State.bitTo_length]
  omega

theorem State.packBits_bitTo_length (hwhole : s.opB % 8 = 0) : (packBits (s.bitTo s.opB)).length = s.opB / 8 :=
  packBits_length _ _ (State.bitTo_length_of_whole hwhole)

/-- After BITS_TO_BYTES the bits of the payload are the bit sequence (R103). -/
theorem execBitsToBytes_payTo (h : execBitsToBytes s = .next t) (hok : t.errcode = .ok) :
    t.opP = s.opB / 8 ∧ s.bitTo (8 * t.opP) = bytesToBits (t.payTo t.opP) := by
  rcases execBitsToBytes_cases h with ⟨rfl, -⟩ | ⟨rfl, -⟩ | ⟨-, hwhole, -, ht⟩
  · cases hok
  · cases hok
  · have hlen : t.opP = s.opB / 8 := by
      have hlt : s.opB < 2 ^ 32 := s.bitlen.isLt
      rw [State.opP, ht, State.complete_paylen, State.setPaylen_paylen, BitVec.toNat_ofNat,
        Nat.mod_eq_of_lt (by omega)]
    have hpay : t.pay = (s.writePay 0 (packBits (s.bitTo s.opB))).pay := by simp [ht]
    have hepoch : t.epoch = (s.writePay 0 (packBits (s.bitTo s.opB))).epoch := by simp [ht]
    refine ⟨hlen, ?_⟩
    rw [hlen, State.payTo_congr hpay hepoch, State.payTo_writePay _ (State.packBits_bitTo_length hwhole),
      bytesToBits_packBits _ _ (State.bitTo_length_of_whole hwhole),
      Nat.mul_div_cancel' (Nat.dvd_of_mod_eq_zero hwhole)]

/-- Settles O45: the three checks in their order, then one write of PAY and one of PAYLEN, so that the bits of PAY are
those of BIT. -/
theorem bitsToBytesCommand : Obligations.BitsToBytesCommand := by
  refine ⟨decode_encode .bitsToBytes, fun s => ⟨execBitsToBytes_of_too_long, execBitsToBytes_of_ragged,
    execBitsToBytes_of_payload_too_long, fun hbit hwhole hpay => ?_⟩⟩
  have hexec := execBitsToBytes_of_fits hbit hwhole hpay
  obtain ⟨hlen, hbits⟩ := execBitsToBytes_payTo hexec rfl
  rw [hlen] at hbits
  refine ⟨_, hexec, exec_keepsFixed (i := .bitsToBytes) hexec, ⟨rfl, rfl, rfl⟩, hlen,
    fun j k hj hk => (State.bitCell_of_bitTo_eq hbits hj hk).symm, fun j hj => ?_, ?_⟩
  · rw [State.complete_payCell, State.setPaylen_payCell,
      State.payCell_writePay_of_le (by rw [State.packBits_bitTo_length hwhole]; exact hj)]
  · simp

/-! ## One command after the other -/

/-- A sequence of commands runs to its end when the first one succeeds and the others do from where it ends. -/
theorem runCommands_cons {i : Instr} {l : List Instr} :
    runCommands (i :: l) s = some t ↔
      ∃ u, exec i (s.accept (encode i)) = .next u ∧ u.errcode = .ok ∧ runCommands l u = some t := by
  obtain ⟨u, hu⟩ := exec_answers_next i (s.accept (encode i))
  simp [runCommands, runCommand, hu]

/-- BITS_TO_BYTES packs the bits that BYTES_TO_BITS has unpacked (R104). -/
theorem runCommands_bytesToBits_bitsToBytes (hp : paramsWf s.pixMax s.payMax = true)
    (h : runCommands [.bytesToBits, .bitsToBytes] s = some t) :
    t.opP = s.opP ∧ t.payTo s.opP = s.payTo s.opP := by
  obtain ⟨u, hunpack, huok, hrest⟩ := runCommands_cons.mp h
  obtain ⟨v, hpack, hvok, hend⟩ := runCommands_cons.mp hrest
  obtain rfl : v = t := Option.some.inj hend
  obtain ⟨hopB, hbitsU⟩ : u.opB = 8 * s.opP ∧ u.bitTo (8 * s.opP) = bytesToBits (s.payTo s.opP) :=
    execBytesToBits_bitTo (s := s.accept (encode .bytesToBits)) hp hunpack huok
  obtain ⟨hopP, hbitsV⟩ : v.opP = u.opB / 8 ∧ u.bitTo (8 * v.opP) = bytesToBits (v.payTo v.opP) :=
    execBitsToBytes_payTo (s := u.accept (encode .bitsToBytes)) hpack hvok
  have hlen : v.opP = s.opP := by omega
  rw [hlen] at hbitsV
  exact ⟨hlen, bytesToBits_injective (hbitsV.symm.trans hbitsU)⟩

/-- Settles O37: packing and unpacking undo each other, and the two commands pack and unpack. -/
theorem bitsAndBytesAreInverse : Obligations.BitsAndBytesAreInverse := by
  refine ⟨fun s => ?_, fun b h => ?_, fun b => bitsToBytes_of_ragged, fun s t hp hrun => ?_⟩
  · rw [bitsToBytes_of_whole (by rw [bytesToBits_length]; omega), packBits_bytesToBits]
  · exact ⟨packBits b, bitsToBytes_of_whole h, bytesToBits_packBits (b.length / 8) b (by omega)⟩
  · obtain ⟨hlen, hpay⟩ := runCommands_bytesToBits_bitsToBytes hp hrun
    exact ⟨BitVec.eq_of_toNat_eq hlen, fun j hj => State.payCell_of_payTo_eq hpay hj⟩

end Sys2Proof.Machine
end

section
/-! PROOFS. The Framer family: the header, the frame, and the commands ENCODE_HEADER, DECODE_HEADER, FRAME and UNFRAME.

A header is the 32 bits of one value and no other, so `HeaderAt` of 32 cells, `encodeHeader` and `headerValue` are
three readings of one relation. A command that succeeds leaves in BIT what the pure function of the same name answers:
`t.bitTo t.opB = frameBits (s.bitTo s.opB) z` for FRAME and `unframe (s.bitTo s.opB) = .ok (t.opB, t.bitTo t.opB)` for
UNFRAME. What the statements say of single cells, and that UNFRAME undoes FRAME, is read off these equations. -/

namespace Sys2Proof.Machine

variable {s t : State}

/-! ## The header as a sequence -/

theorem encodeHeader_getElem? (n : Word) {j k : Nat} (hj : j < 4) (hk : k < 8) :
    (encodeHeader n)[8 * j + k]? = some (n.getLsbD (8 * j + 7 - k)) := by
  have hlen : 8 * j + k < (encodeHeader n).length := by rw [encodeHeader_length]; omega
  rw [← encodeHeader_getD n j k hj hk false, List.getElem?_eq_getElem hlen, List.getD_eq_getElem _ _ hlen]

/-- Settles O38: the header is 32 bits long, and its bits are the value's by byte and bit. -/
theorem headerBitsOfValue : Obligations.HeaderBitsOfValue := by
  intro n
  exact ⟨encodeHeader_length n, fun j k => encodeHeader_getElem? n⟩

theorem decodeHeader_of_short {b : List Bit} (h : b.length < 32) : decodeHeader b = .error .headerCorrupt :=
  if_pos h

theorem decodeHeader_of_full {b : List Bit} (h : 32 ≤ b.length) : decodeHeader b = .ok (headerValue b) :=
  if_neg (Nat.not_lt.mpr h)

/-- A header decodes to the value it encodes (R128). -/
theorem decodeHeader_encodeHeader (n : Word) : decodeHeader (encodeHeader n) = .ok n := by
  have hvalue := headerValue_encodeHeader n []
  rw [List.append_nil] at hvalue
  rw [decodeHeader_of_full (encodeHeader_length n).ge, hvalue]

/-- A sequence of 32 bits is the header of the value it decodes to, and of no other (R120, R121). -/
theorem headerValue_eq_iff {b : List Bit} (h : b.length = 32) {v : Word} : headerValue b = v ↔ b = encodeHeader v := by
  constructor
  · rintro rfl
    rw [encodeHeader_headerValue h.ge, List.take_of_length_le h.le]
  · rintro rfl
    rw [← List.append_nil (encodeHeader v), headerValue_encodeHeader]

/-! ## The header value as a sum -/

/-- Eight bits, the most significant first, as the number that R101 and R121 make of them. -/
def msbFirst (f : Nat → Bit) : Nat := ∑ k ∈ Finset.range 8, (f k).toNat * 2 ^ (7 - k)

theorem msbFirst_lt (f : Nat → Bit) : msbFirst f < 2 ^ 8 := by
  have hterm (k : Nat) (_ : k ∈ Finset.range 8) : (f k).toNat * 2 ^ (7 - k) ≤ 1 * 2 ^ (7 - k) :=
    Nat.mul_le_mul_right _ (f k).toNat_le
  calc msbFirst f ≤ ∑ k ∈ Finset.range 8, 1 * 2 ^ (7 - k) := Finset.sum_le_sum hterm
    _ < 2 ^ 8 := by decide

theorem packBits_eq_map_msbFirst {n : Nat} {b : List Bit} (h : b.length = 8 * n) :
    packBits b = (List.range n).map (fun j => BitVec.ofNat 8 (msbFirst fun k => b.getD (8 * j + k) false)) := by
  apply List.ext_getElem?
  intro j
  by_cases hj : j < n
  · rw [packBits_getElem? h hj]
    simp [hj, msbFirst]
  · simp [hj, packBits_length n b h]

/-- A sum over whole bytes, byte by byte. -/
theorem sum_range_eight_mul (f : Nat → Nat) (n : Nat) :
    ∑ i ∈ Finset.range (8 * n), f i = ∑ j ∈ Finset.range n, ∑ k ∈ Finset.range 8, f (8 * j + k) := by
  induction n with
  | zero => rfl
  | succ n ih => rw [Nat.mul_succ, Finset.sum_range_add, ih, Finset.sum_range_succ _ n]

/-- Byte `j` of a header carries weight `2 ^ (8j)`, and its bit `k` within the byte `2 ^ (7 - k)` (R121). -/
theorem headerValue_eq_sum {b : List Bit} (h : 32 ≤ b.length) :
    headerValue b = BitVec.ofNat 32 (∑ i ∈ Finset.range 32,
      (b.getD i false).toNat * 2 ^ (8 * (i / 8) + 7 - i % 8)) := by
  have hlen : (b.take 32).length = 8 * 4 := by rw [List.length_take]; omega
  rw [headerValue, hdrBits_eq, packBits_eq_map_msbFirst hlen, leWord_map_range, sum_range_eight_mul _ 4]
  congr 1
  refine Finset.sum_congr rfl fun j hj => ?_
  rw [BitVec.toNat_ofNat, Nat.mod_eq_of_lt (msbFirst_lt _), msbFirst, Finset.sum_mul]
  refine Finset.sum_congr rfl fun k hk => ?_
  have hj4 : j < 4 := Finset.mem_range.mp hj
  have hk8 : k < 8 := Finset.mem_range.mp hk
  have hbit : (b.take 32).getD (8 * j + k) false = b.getD (8 * j + k) false := by
    rw [List.getD_eq_getElem?_getD, List.getElem?_take_of_lt (by omega), ← List.getD_eq_getElem?_getD]
  rw [hbit, Nat.mul_assoc, ← Nat.pow_add]
  congr 2
  omega

/-- Settles O39: the four bytes of the header as one sum, and the failure on fewer than 32 bits. -/
theorem headerValueOfBits : Obligations.HeaderValueOfBits := by
  intro b
  exact ⟨decodeHeader_of_short, fun h => by rw [decodeHeader_of_full h, headerValue_eq_sum h]⟩

/-! ## The header in cells -/

/-- Cells hold the header of `v` exactly when their first 32 are its encoding. -/
theorem headerAt_iff_encodeHeader {cell : Nat → Bit} {v : Word} :
    HeaderAt cell v ↔ (List.range 32).map cell = encodeHeader v := by
  have hcell {j k : Nat} (hj : j < 4) (hk : k < 8) :
      ((List.range 32).map cell)[8 * j + k]? = some (cell (8 * j + k)) := by
    rw [List.getElem?_map, List.getElem?_range (by omega), Option.map_some]
  constructor
  · intro h
    apply List.ext_getElem?
    intro i
    by_cases hi : i < 32
    · have hj : i / 8 < 4 := by omega
      have hk : i % 8 < 8 := Nat.mod_lt _ (by omega)
      rw [← Nat.div_add_mod i 8, hcell hj hk, encodeHeader_getElem? v hj hk, h _ _ hj hk]
    · simp [hi]
  · intro h j k hj hk
    rw [← Option.some_inj, ← hcell hj hk, h, encodeHeader_getElem? v hj hk]

theorem headerValue_eq_iff_headerAt {cell : Nat → Bit} {v : Word} :
    headerValue ((List.range 32).map cell) = v ↔ HeaderAt cell v := by
  rw [headerValue_eq_iff (by simp), headerAt_iff_encodeHeader]

/-- The header value that UNFRAME and DECODE_HEADER read is the one the cells of BIT hold. -/
theorem State.bitHeader_eq_iff {v : Word} : s.bitHeader = v ↔ HeaderAt s.bitCell v :=
  headerValue_eq_iff_headerAt

/-- Only the first 32 cells of the bit sequence are the header. -/
theorem State.headerValue_bitTo {n : Nat} (h : 32 ≤ n) : headerValue (s.bitTo n) = s.bitHeader := by
  rw [State.bitHeader, hdrBits_eq, ← State.bitTo_take s h, headerValue_take le_rfl]

/-! ## Framing and unframing -/

theorem frame_of_fits {p z : List Bit} {c : Nat} (h : p.length + 32 ≤ c) : frame p c z = .ok (frameBits p z) :=
  if_neg (Nat.not_lt.mpr h)

theorem unframe_of_fits {f : List Bit} (h : (headerValue f).toNat + 32 ≤ f.length) :
    unframe f = .ok ((headerValue f).toNat, framePayload f (headerValue f).toNat) := by
  rw [unframe, hdrBits_eq, if_neg (by omega), if_neg (by omega)]

theorem headerValue_frameBits (p z : List Bit) : headerValue (frameBits p z) = BitVec.ofNat 32 p.length := by
  rw [frameBits, List.append_assoc, headerValue_encodeHeader]

/-- Behind the header of a frame stands the payload (R122, R123). -/
theorem framePayload_frameBits (p z : List Bit) : framePayload (frameBits p z) p.length = p := by
  rw [framePayload, hdrBits_eq, frameBits, List.append_assoc, List.drop_left' (encodeHeader_length _), List.take_left]

/-- Unframing finds the payload by the length in the header and does not look at the filler (R129). -/
theorem unframe_frameBits {p : List Bit} (z : List Bit) (h : p.length < 2 ^ 32) :
    unframe (frameBits p z) = .ok (p.length, p) := by
  have hlen : (headerValue (frameBits p z)).toNat = p.length := by
    rw [headerValue_frameBits, BitVec.toNat_ofNat, Nat.mod_eq_of_lt h]
  rw [unframe_of_fits (by rw [hlen, frameBits_length]; omega), hlen, framePayload_frameBits]

/-! ## A slice of BIT that is written and read -/

theorem State.bitTo_getD {n i : Nat} (hi : i < n) (d : Bit) : (s.bitTo n).getD i d = s.bitCell i := by
  rw [List.getD_eq_getElem _ _ (by rw [State.bitTo_length]; exact hi), State.bitTo_getElem]

theorem State.bitCell_of_bitTo_eq_bitTo {n i : Nat} (h : t.bitTo n = s.bitTo n) (hi : i < n) :
    t.bitCell i = s.bitCell i := by
  rw [← State.bitTo_getD hi false, h, State.bitTo_getD hi]

/-- `t` comes from `s` by writing `vs` to the first cells of BIT, whatever else a command writes. -/
structure State.WroteBit (s t : State) (vs : List Bit) : Prop where
  bit : t.bit = s.bit.write 0 vs
  epoch : t.epoch = s.epoch

theorem State.WroteBit.bitTo {vs : List Bit} (h : s.WroteBit t vs) {n : Nat} (hlen : vs.length = n) :
    t.bitTo n = vs :=
  (State.bitTo_congr (s := s.writeBit 0 vs) h.bit h.epoch n).trans (s.bitTo_writeBit hlen)

theorem State.WroteBit.bitCell_behind {vs : List Bit} (h : s.WroteBit t vs) {i : Nat} (hi : vs.length ≤ i) :
    t.bitCell i = s.bitCell i :=
  (State.bitCell_congr (s := s.writeBit 0 vs) h.bit h.epoch i).trans (State.bitCell_writeBit_of_le hi)

theorem framePayload_getD (f : List Bit) {n i : Nat} (hi : i < n) (d : Bit) :
    (framePayload f n).getD i d = f.getD (32 + i) d := by
  rw [framePayload, hdrBits_eq, List.getD_eq_getElem?_getD, List.getElem?_take_of_lt hi, List.getElem?_drop,
    List.getD_eq_getElem?_getD]

theorem frameBits_getD_payload {p : List Bit} (z : List Bit) {i : Nat} (hi : i < p.length) (d : Bit) :
    (frameBits p z).getD (32 + i) d = p.getD i d := by
  rw [← framePayload_getD _ hi, framePayload_frameBits]

/-- Where BIT holds a frame, its first 32 cells hold the header of the payload's length. -/
theorem State.headerAt_of_bitTo_eq_frameBits {p z : List Bit} {c : Nat} (h : t.bitTo c = frameBits p z) :
    HeaderAt t.bitCell (BitVec.ofNat 32 p.length) := by
  have hlen := congrArg List.length h
  rw [State.bitTo_length, frameBits_length] at hlen
  rw [← State.bitHeader_eq_iff, ← State.headerValue_bitTo (n := c) (by omega), h, headerValue_frameBits]

/-- Where BIT holds a frame, the payload stands in the cells from 32 on. -/
theorem State.bitCell_of_bitTo_eq_frameBits {p z : List Bit} {c i : Nat} (h : t.bitTo c = frameBits p z)
    (hi : i < p.length) (d : Bit) : t.bitCell (32 + i) = p.getD i d := by
  have hlen := congrArg List.length h
  rw [State.bitTo_length, frameBits_length] at hlen
  rw [← State.bitTo_getD (n := c) (by omega) d, h, frameBits_getD_payload z hi]

/-! ## ENCODE_HEADER -/

theorem execEncodeHeader_wroteBit (h : execEncodeHeader s = .next t) : s.WroteBit t (encodeHeader s.hdrval) := by
  obtain rfl := execEncodeHeader_cases h
  exact ⟨rfl, rfl⟩

/-- After ENCODE_HEADER the header of HDRVAL stands in BIT (R124). -/
theorem execEncodeHeader_headerAt (h : execEncodeHeader s = .next t) : HeaderAt t.bitCell s.hdrval :=
  headerAt_iff_encodeHeader.mpr ((execEncodeHeader_wroteBit h).bitTo (encodeHeader_length _))

theorem execEncodeHeader_behind (h : execEncodeHeader s = .next t) {i : Nat} (hi : 32 ≤ i) :
    t.bitCell i = s.bitCell i :=
  (execEncodeHeader_wroteBit h).bitCell_behind (by rw [encodeHeader_length]; exact hi)

/-- Settles O46: one write of 32 cells and one of BITLEN. -/
theorem encodeHeaderCommand : Obligations.EncodeHeaderCommand := by
  refine ⟨decode_encode .encodeHeader, fun s => ?_⟩
  have hexec : execEncodeHeader s = .next (((s.writeBit 0 (encodeHeader s.hdrval)).setBitlen 32#32).complete .ok) :=
    commit_eq _
  exact ⟨_, hexec, exec_keepsFixed (i := .encodeHeader) hexec, ⟨rfl, rfl, rfl⟩, rfl, execEncodeHeader_headerAt hexec,
    fun i => execEncodeHeader_behind hexec, by simp⟩

/-! ## DECODE_HEADER -/

theorem execDecodeHeader_of_too_long (hbit : s.bitMax < s.opB) :
    execDecodeHeader s = .next (s.onlyStatus .lengthRange) := by
  rw [execDecodeHeader, if_pos hbit, raise_eq, onlyStatus_eq]

theorem execDecodeHeader_of_short (hbit : s.opB ≤ s.bitMax) (hshort : s.opB < Config.hdrBits) :
    execDecodeHeader s = .next (s.onlyStatus .headerCorrupt) := by
  rw [execDecodeHeader, if_neg (Nat.not_lt.mpr hbit), if_pos hshort, raise_eq, onlyStatus_eq]

theorem execDecodeHeader_of_full (hbit : s.opB ≤ s.bitMax) (hfull : Config.hdrBits ≤ s.opB) :
    execDecodeHeader s = .next ((s.setHdrval s.bitHeader).complete .ok) := by
  rw [execDecodeHeader, if_neg (Nat.not_lt.mpr hbit), if_neg (Nat.not_lt.mpr hfull), commit_eq, State.bitHeader]

/-- Settles O47: the two checks in their order, then one write of HDRVAL. -/
theorem decodeHeaderCommand : Obligations.DecodeHeaderCommand := by
  refine ⟨decode_encode .decodeHeader, fun s =>
    ⟨execDecodeHeader_of_too_long, execDecodeHeader_of_short, fun hbit hfull => ?_⟩⟩
  have hexec := execDecodeHeader_of_full hbit hfull
  exact ⟨_, hexec, exec_keepsFixed (i := .decodeHeader) hexec, ⟨rfl, rfl, rfl⟩, State.bitHeader_eq_iff.mp rfl, by simp⟩

/-- DECODE_HEADER finds in BIT the header that ENCODE_HEADER has left there; it fits into BIT by the bounds of the
parameters (R7, R128). -/
theorem runCommands_encodeHeader_decodeHeader (hp : paramsWf s.pixMax s.payMax = true) :
    ∃ t, runCommands [.encodeHeader, .decodeHeader] s = some t ∧ t.hdrval = s.hdrval := by
  obtain ⟨u, hu⟩ := exec_answers_next .encodeHeader (s.accept (encode .encodeHeader))
  have hheader : u.bitHeader = s.hdrval := State.bitHeader_eq_iff.mpr (execEncodeHeader_headerAt hu)
  have hmax : u.pixMax = s.pixMax := (exec_keepsFixed hu).pixMax
  obtain ⟨hbits, hok⟩ : u.opB = 32 ∧ u.errcode = .ok := by
    rw [execEncodeHeader_cases hu]
    exact ⟨rfl, rfl⟩
  obtain ⟨hmin, -⟩ := paramsWf_iff.mp hp
  have hv := execDecodeHeader_of_full (s := u.accept (encode .decodeHeader))
    (show u.opB ≤ u.pixMax by omega) (show 32 ≤ u.opB by omega)
  exact ⟨_, runCommands_cons.mpr ⟨u, hu, hok, runCommands_cons.mpr ⟨_, hv, rfl, rfl⟩⟩, hheader⟩

/-- Settles O40: decoding and encoding of a header undo each other, and so do the two commands. -/
theorem headerFidelity : Obligations.HeaderFidelity := by
  refine ⟨decodeHeader_encodeHeader, fun b h => ?_, fun s => runCommands_encodeHeader_decodeHeader⟩
  exact ⟨headerValue b, decodeHeader_of_full h, encodeHeader_headerValue h⟩

/-! ## FRAME -/

theorem execFrame_of_too_long (h : s.bitMax < s.opB ∨ s.pixMax < s.opN) :
    execFrame s = .next (s.onlyStatus .lengthRange) := by
  rw [execFrame]
  by_cases hbit : s.bitMax < s.opB
  · rw [if_pos hbit, raise_eq, onlyStatus_eq]
  · rw [if_neg hbit, if_pos (h.resolve_left hbit), raise_eq, onlyStatus_eq]

theorem execFrame_of_no_room (hbit : s.opB ≤ s.bitMax) (hpix : s.opN ≤ s.pixMax)
    (hroom : s.opN < s.opB + Config.hdrBits) : execFrame s = .next (s.onlyStatus .capacityExceeded) := by
  rw [execFrame, if_neg (Nat.not_lt.mpr hbit), if_neg (Nat.not_lt.mpr hpix), if_pos hroom, raise_eq, onlyStatus_eq]

theorem execFrame_of_fits (hbit : s.opB ≤ s.bitMax) (hpix : s.opN ≤ s.pixMax)
    (hroom : s.opB + Config.hdrBits ≤ s.opN) :
    execFrame s = .next ((((s.writeBit 0 (frameBits (s.bitTo s.opB)
      (s.filler (s.opN - Config.hdrBits - s.opB)))).setBitlen s.pixcnt).setHdrval s.bitlen).usedFiller.complete .ok) := by
  rw [execFrame, if_neg (Nat.not_lt.mpr hbit), if_neg (Nat.not_lt.mpr hpix), if_neg (Nat.not_lt.mpr hroom), commit_eq]

/-- A FRAME that succeeds writes the frame of the bit sequence to BIT (R126). -/
theorem execFrame_ok (h : execFrame s = .next t) (hok : t.errcode = .ok) :
    s.opB + 32 ≤ s.opN ∧ t.bitlen = s.pixcnt ∧
      s.WroteBit t (frameBits (s.bitTo s.opB) (s.filler (s.opN - Config.hdrBits - s.opB))) := by
  rcases execFrame_cases h with ⟨rfl, -⟩ | ⟨rfl, -⟩ | ⟨-, -, hroom, rfl⟩
  · cases hok
  · cases hok
  · exact ⟨hroom, rfl, rfl, rfl⟩

theorem execFrame_bitTo (h : execFrame s = .next t) (hok : t.errcode = .ok) :
    t.bitTo s.opN = frameBits (s.bitTo s.opB) (s.filler (s.opN - Config.hdrBits - s.opB)) := by
  obtain ⟨hroom, -, hwrote⟩ := execFrame_ok h hok
  exact hwrote.bitTo (frameBits_filler_length (s.bitTo_length s.opB) hroom)

theorem execFrame_headerAt (h : execFrame s = .next t) (hok : t.errcode = .ok) : HeaderAt t.bitCell s.bitlen := by
  have hheader := State.headerAt_of_bitTo_eq_frameBits (execFrame_bitTo h hok)
  rwa [State.bitTo_length, State.opB, BitVec.ofNat_toNat, BitVec.setWidth_eq] at hheader

theorem execFrame_payload (h : execFrame s = .next t) (hok : t.errcode = .ok) {i : Nat} (hi : i < s.opB) :
    t.bitCell (32 + i) = s.bitCell i := by
  rw [State.bitCell_of_bitTo_eq_frameBits (execFrame_bitTo h hok) (by rw [State.bitTo_length]; exact hi) false,
    State.bitTo_getD hi]

theorem execFrame_zeros (h : execFrame s = .next t) (hok : t.errcode = .ok) (hfill : s.curFill = false) {i : Nat}
    (hi : s.opB + 32 ≤ i) (hiN : i < s.opN) : t.bitCell i = false := by
  obtain ⟨k, rfl⟩ := Nat.exists_eq_add_of_le hi
  rw [← State.bitTo_getD hiN false, execFrame_bitTo h hok, frameBits_getD_filler (s.bitTo_length s.opB)]
  simp [State.filler, hfill, zeros]

theorem execFrame_behind (h : execFrame s = .next t) (hok : t.errcode = .ok) {i : Nat} (hi : s.opN ≤ i) :
    t.bitCell i = s.bitCell i := by
  obtain ⟨hroom, -, hwrote⟩ := execFrame_ok h hok
  exact hwrote.bitCell_behind ((frameBits_filler_length (s.bitTo_length s.opB) hroom).trans_le hi)

/-- Settles O48: the three checks in their order, then the frame in BIT, whose parts are the header of the old BITLEN,
the old bit sequence and the filler. -/
theorem frameCommand : Obligations.FrameCommand := by
  refine ⟨decode_encode .frame, fun s => ⟨fun h => execFrame_of_too_long (.inl h),
    fun h => execFrame_of_too_long (.inr h), execFrame_of_no_room, fun hbit hpix hroom => ?_⟩⟩
  have hexec := execFrame_of_fits hbit hpix hroom
  refine ⟨_, hexec, exec_keepsFixed (i := .frame) hexec, ⟨rfl, rfl, rfl⟩, rfl, rfl, execFrame_headerAt hexec rfl,
    fun i => execFrame_payload hexec rfl, fun hfill i => execFrame_zeros hexec rfl hfill,
    fun i => execFrame_behind hexec rfl, ?_⟩
  simp +contextual

/-! ## UNFRAME -/

theorem execUnframe_of_too_long (hbit : s.bitMax < s.opB) : execUnframe s = .next (s.onlyStatus .lengthRange) := by
  rw [execUnframe, if_pos hbit, raise_eq, onlyStatus_eq]

theorem execUnframe_of_short (hbit : s.opB ≤ s.bitMax) (hshort : s.opB < Config.hdrBits) :
    execUnframe s = .next (s.onlyStatus .headerCorrupt) := by
  rw [execUnframe, if_neg (Nat.not_lt.mpr hbit), if_pos hshort, raise_eq, onlyStatus_eq]

theorem execUnframe_of_truncated (hbit : s.opB ≤ s.bitMax) (hfull : Config.hdrBits ≤ s.opB)
    (htrunc : s.opB < s.bitHeader.toNat + Config.hdrBits) :
    execUnframe s = .next (s.onlyStatus .truncatedPayload) := by
  rw [execUnframe, if_neg (Nat.not_lt.mpr hbit), if_neg (Nat.not_lt.mpr hfull), if_pos htrunc, raise_eq, onlyStatus_eq]

theorem execUnframe_of_fits (hbit : s.opB ≤ s.bitMax) (hfits : s.bitHeader.toNat + Config.hdrBits ≤ s.opB) :
    execUnframe s = .next ((((s.writeBit 0 (framePayload (s.bitTo s.opB) s.bitHeader.toNat)).setBitlen
      s.bitHeader).setHdrval s.bitHeader).complete .ok) := by
  rw [execUnframe, if_neg (Nat.not_lt.mpr hbit), if_neg (by omega), if_neg (Nat.not_lt.mpr hfits), commit_eq]

/-- The payload of a frame in BIT is as long as its header says. -/
theorem State.framePayload_bitTo_length {n c : Nat} (h : n + 32 ≤ c) : (framePayload (s.bitTo c) n).length = n := by
  rw [framePayload_length, State.bitTo_length]
  omega

/-- An UNFRAME that succeeds writes the payload of the frame to the front of BIT (R127). -/
theorem execUnframe_ok (h : execUnframe s = .next t) (hok : t.errcode = .ok) :
    s.bitHeader.toNat + 32 ≤ s.opB ∧ t.bitlen = s.bitHeader ∧ t.hdrval = s.bitHeader ∧
      s.WroteBit t (framePayload (s.bitTo s.opB) s.bitHeader.toNat) := by
  rcases execUnframe_cases h with ⟨rfl, -⟩ | ⟨rfl, -⟩ | ⟨rfl, -⟩ | ⟨-, hfits, rfl⟩
  · cases hok
  · cases hok
  · cases hok
  · exact ⟨hfits, rfl, rfl, rfl, rfl⟩

theorem execUnframe_bitTo (h : execUnframe s = .next t) (hok : t.errcode = .ok) :
    t.bitTo s.bitHeader.toNat = framePayload (s.bitTo s.opB) s.bitHeader.toNat := by
  obtain ⟨hfits, -, -, hwrote⟩ := execUnframe_ok h hok
  exact hwrote.bitTo (State.framePayload_bitTo_length hfits)

theorem execUnframe_payload (h : execUnframe s = .next t) (hok : t.errcode = .ok) {i : Nat}
    (hi : i < s.bitHeader.toNat) : t.bitCell i = s.bitCell (32 + i) := by
  obtain ⟨hfits, -⟩ := execUnframe_ok h hok
  rw [← State.bitTo_getD hi false, execUnframe_bitTo h hok, framePayload_getD _ hi, State.bitTo_getD (by omega)]

theorem execUnframe_behind (h : execUnframe s = .next t) (hok : t.errcode = .ok) {i : Nat}
    (hi : s.bitHeader.toNat ≤ i) : t.bitCell i = s.bitCell i := by
  obtain ⟨hfits, -, -, hwrote⟩ := execUnframe_ok h hok
  exact hwrote.bitCell_behind ((State.framePayload_bitTo_length hfits).trans_le hi)

/-- Settles O49: `v` is the header value that UNFRAME reads; the three checks in their order, then one write of the
payload to the front of BIT. -/
theorem unframeCommand : Obligations.UnframeCommand := by
  refine ⟨decode_encode .unframe, fun s v hheader => ?_⟩
  obtain rfl := State.bitHeader_eq_iff.mpr hheader
  refine ⟨execUnframe_of_too_long, execUnframe_of_short, execUnframe_of_truncated, fun hbit hfits => ?_⟩
  have hexec := execUnframe_of_fits hbit hfits
  exact ⟨_, hexec, exec_keepsFixed (i := .unframe) hexec, ⟨rfl, rfl, rfl⟩, rfl, rfl,
    fun i => execUnframe_payload hexec rfl, fun i => execUnframe_behind hexec rfl, by simp⟩

/-! ## FRAME and then UNFRAME -/

/-- UNFRAME leaves in BITLEN and BIT what `unframe` answers for the bit sequence (R123, R127). -/
theorem execUnframe_unframe (h : execUnframe s = .next t) (hok : t.errcode = .ok) :
    unframe (s.bitTo s.opB) = .ok (t.opB, t.bitTo t.opB) := by
  obtain ⟨hfits, hbitlen, -, -⟩ := execUnframe_ok h hok
  have hvalue : headerValue (s.bitTo s.opB) = s.bitHeader := State.headerValue_bitTo (by omega)
  have hopB : t.opB = s.bitHeader.toNat := congrArg BitVec.toNat hbitlen
  rw [unframe_of_fits (by rw [hvalue, State.bitTo_length]; exact hfits), hvalue, hopB, execUnframe_bitTo h hok]

/-- UNFRAME finds in BIT the frame that FRAME has left there, whatever its filler (R129). -/
theorem runCommands_frame_unframe (h : runCommands [.frame, .unframe] s = some t) :
    t.hdrval = t.bitlen ∧ t.opB = s.opB ∧ t.bitTo s.opB = s.bitTo s.opB := by
  obtain ⟨u, hframe, huok, hrest⟩ := runCommands_cons.mp h
  obtain ⟨v, hunframe, hvok, hend⟩ := runCommands_cons.mp hrest
  obtain rfl : v = t := Option.some.inj hend
  obtain ⟨-, hbitlenU, -⟩ := execFrame_ok (s := s.accept (encode .frame)) hframe huok
  obtain ⟨-, hbitlen, hhdrval, -⟩ := execUnframe_ok (s := u.accept (encode .unframe)) hunframe hvok
  have hlenU : u.opB = s.opN := congrArg BitVec.toNat hbitlenU
  obtain ⟨z, hbitsU⟩ : ∃ z, u.bitTo s.opN = frameBits (s.bitTo s.opB) z :=
    ⟨_, execFrame_bitTo (s := s.accept (encode .frame)) hframe huok⟩
  have hbitsV : unframe (u.bitTo u.opB) = .ok (v.opB, v.bitTo v.opB) :=
    execUnframe_unframe (s := u.accept (encode .unframe)) hunframe hvok
  have hpayload : (s.bitTo s.opB).length < 2 ^ 32 := by
    rw [State.bitTo_length]
    exact s.bitlen.isLt
  rw [hlenU, hbitsU, unframe_frameBits z hpayload, State.bitTo_length] at hbitsV
  obtain ⟨hlen, hbits⟩ := Prod.mk.inj (Except.ok.inj hbitsV)
  rw [← hlen] at hbits
  exact ⟨hhdrval.trans hbitlen.symm, hlen.symm, hbits.symm⟩

/-- Settles O41: a frame carries its payload's length in the header, and the two commands leave in BIT what the two
functions answer. -/
theorem frameInverse : Obligations.FrameInverse := by
  refine ⟨fun p z c hp hfits hz => ?_, fun s t hrun => ?_⟩
  · exact ⟨frameBits p z, frame_of_fits hfits, by rw [frameBits_length]; omega, unframe_frameBits z hp⟩
  · obtain ⟨hhdrval, hlen, hbits⟩ := runCommands_frame_unframe hrun
    have hbitlen : t.bitlen = s.bitlen := BitVec.eq_of_toNat_eq hlen
    exact ⟨hbitlen, hhdrval.trans hbitlen, fun i hi => State.bitCell_of_bitTo_eq_bitTo hbits hi⟩

end Sys2Proof.Machine
end

section
/-! PROOFS. The CapacityGuard family: the guard `check` and the command CHECK.

The guard decides one comparison (`guardRejects_iff`): `check_eq_ok_iff` is what the largest accepted lengths are read
off, and CHECK, once both lengths are in range, completes with the guard's answer. -/

namespace Sys2Proof.Machine

variable {s : State}

/-! ## The guard -/

theorem check_of_no_room {b n : Nat} (h : n ≤ b + 32) : check b n = .error .capacityExceeded :=
  if_pos ((guardRejects_iff b n).mpr h)

theorem guardRejects_of_room {b n : Nat} (h : b + 32 < n) : ¬ guardRejects b n = true :=
  fun hrejects => Nat.not_lt.mpr ((guardRejects_iff b n).mp hrejects) h

theorem check_of_room {b n : Nat} (h : b + 32 < n) : check b n = .ok () := if_neg (guardRejects_of_room h)

theorem check_eq_ok_iff (b n : Nat) : check b n = .ok () ↔ b + 32 < n := by
  refine ⟨fun hok => ?_, check_of_room⟩
  by_contra hroom
  rw [check_of_no_room (Nat.not_lt.mp hroom)] at hok
  cases hok

/-- Settles O42: `check` compares `b + 32` with `n`, and the largest accepted lengths solve the inequality for `b`. -/
theorem capacityGuardBoundary : Obligations.CapacityGuardBoundary := by
  refine ⟨fun b n => ⟨check_of_no_room, check_of_room⟩, fun n hn => ⟨fun b => ?_, fun p => ?_⟩⟩
  · rw [check_eq_ok_iff]
    omega
  · rw [check_eq_ok_iff]
    omega

/-! ## CHECK -/

theorem execCheck_of_too_long (h : s.bitMax < s.opB ∨ s.pixMax < s.opN) :
    execCheck s = .next (s.onlyStatus .lengthRange) := by
  rw [execCheck]
  by_cases hbit : s.bitMax < s.opB
  · rw [if_pos hbit, raise_eq, onlyStatus_eq]
  · rw [if_neg hbit, if_pos (h.resolve_left hbit), raise_eq, onlyStatus_eq]

theorem execCheck_of_no_room (hbit : s.opB ≤ s.bitMax) (hpix : s.opN ≤ s.pixMax) (hroom : s.opN ≤ s.opB + 32) :
    execCheck s = .next (s.onlyStatus .capacityExceeded) := by
  rw [execCheck, if_neg (Nat.not_lt.mpr hbit), if_neg (Nat.not_lt.mpr hpix), if_pos ((guardRejects_iff _ _).mpr hroom),
    raise_eq, onlyStatus_eq]

theorem execCheck_of_room (hbit : s.opB ≤ s.bitMax) (hpix : s.opN ≤ s.pixMax) (hroom : s.opB + 32 < s.opN) :
    execCheck s = .next (s.onlyStatus .ok) := by
  rw [execCheck, if_neg (Nat.not_lt.mpr hbit), if_neg (Nat.not_lt.mpr hpix), if_neg (guardRejects_of_room hroom),
    commit_eq, onlyStatus_eq]

/-- Settles O50: the range checks, then the guard; each way the completion is the whole change (R151). -/
theorem checkCommand : Obligations.CheckCommand :=
  ⟨decode_encode .check, fun _ => ⟨fun h => execCheck_of_too_long (.inl h), fun h => execCheck_of_too_long (.inr h),
    execCheck_of_no_room, execCheck_of_room⟩⟩

end Sys2Proof.Machine
end

section
/-! PROOFS. The LsbCodec family: the functions `embed` and `extract`, and the commands EMBED and EXTRACT.

Embedding is the same change to each pixel: bits 7..1 stay (`embedByte_shift`), so the value moves by at most 1. The
commands are read cell by cell: after EMBED a pixel below PIXCNT is the embedding of its bit, and after EXTRACT a bit
below PIXCNT is bit 0 of its pixel. -/

namespace Sys2Proof.Machine

variable {s t : State}

/-! ## Embedding and extracting -/

theorem embed_getElem {x : List Byte} {f : List Bit} {i : Nat} (hx : i < x.length) (hf : i < f.length)
    (h : i < (embed x f).length) : (embed x f)[i] = embedByte x[i] f[i] :=
  List.getElem_zipWith

/-- Embedding the bit that a pixel already carries gives the pixel back. -/
theorem embedByte_extractByte (x : Byte) : embedByte x (extractByte x) = x := by
  refine BitVec.eq_of_getLsbD_eq fun k _ => ?_
  rw [embedByte_getLsbD]
  split
  case isTrue hk => rw [hk, extractByte]
  case isFalse => rfl

theorem embed_extract (x : List Byte) : embed x (extract x) = x := by
  rw [embed, extract, List.zipWith_map_right, List.zipWith_self]
  simp [embedByte_extractByte]

/-- A pixel and its embedding have the same half, so their values differ by at most 1 (R165). -/
theorem embedByte_toNat_div_two (x : Byte) (f : Bit) : (embedByte x f).toNat / 2 = x.toNat / 2 := by
  simpa [Nat.shiftRight_eq_div_pow] using congrArg BitVec.toNat (embedByte_shift x f)

/-- Settles O43: both inverses hold pixel by pixel, and a pixel whose half stays moves by at most 1. -/
theorem embedChangesOnlyLsbs : Obligations.EmbedChangesOnlyLsbs := by
  refine fun x f hlen => ⟨embed_length hlen, extract_embed hlen, embed_extract x, fun i hi hi' => ?_⟩
  rw [embed_getElem hi (hlen ▸ hi) hi']
  have hhalf := embedByte_toNat_div_two x[i] (f[i]'(hlen ▸ hi))
  exact ⟨embedByte_shift _ _, by omega, by omega⟩

/-! ## EMBED -/

theorem execEmbed_of_too_long (h : s.bitMax < s.opB ∨ s.pixMax < s.opN) :
    execEmbed s = .next (s.onlyStatus .lengthRange) := by
  rw [execEmbed]
  by_cases hbit : s.bitMax < s.opB
  · rw [if_pos hbit, raise_eq, onlyStatus_eq]
  · rw [if_neg hbit, if_pos (h.resolve_left hbit), raise_eq, onlyStatus_eq]

theorem execEmbed_of_mismatch (hbit : s.opB ≤ s.bitMax) (hpix : s.opN ≤ s.pixMax) (hlen : s.opB ≠ s.opN) :
    execEmbed s = .next (s.onlyStatus .lengthMismatch) := by
  rw [execEmbed, if_neg (Nat.not_lt.mpr hbit), if_neg (Nat.not_lt.mpr hpix), if_pos hlen, raise_eq, onlyStatus_eq]

/-- With equal lengths one range check is enough, as BIT and PIX have the same size (R7). -/
theorem execEmbed_of_fits (hpix : s.opN ≤ s.pixMax) (hlen : s.opB = s.opN) :
    execEmbed s = .next ((s.writePix 0 (embed (s.pixTo s.opN) (s.bitTo s.opN))).complete .ok) := by
  have hbit : s.opB ≤ s.bitMax := hlen.trans_le hpix
  rw [execEmbed, if_neg (Nat.not_lt.mpr hbit), if_neg (Nat.not_lt.mpr hpix), if_neg (not_not_intro hlen), commit_eq]

/-- After an EMBED that succeeds, each of the first PIXCNT pixels carries its bit, and the others stay (R162). -/
theorem execEmbed_pixCell (h : execEmbed s = .next t) (hok : t.errcode = .ok) (i : Nat) :
    t.pixCell i = if i < s.opN then embedByte (s.pixCell i) (s.bitCell i) else s.pixCell i := by
  rcases execEmbed_cases h with ⟨rfl, -⟩ | ⟨rfl, -⟩ | ⟨-, -, rfl⟩
  · cases hok
  · cases hok
  · rw [State.complete_pixCell, State.pixCell_writePix_embed (s.bitTo_length s.opN)]
    simp

/-- Settles O51: the checks in their order, then one write of PIX; each pixel below PIXCNT is the embedding of its
bit, and nothing else but STATUS changes. -/
theorem embedCommand : Obligations.EmbedCommand := by
  refine ⟨decode_encode .embed, fun s => ⟨fun h => execEmbed_of_too_long (.inl h),
    fun h => execEmbed_of_too_long (.inr h),
    fun hbit hpix hne => execEmbed_of_mismatch hbit hpix fun heq => hne (BitVec.eq_of_toNat_eq heq),
    fun hpix hlen => ?_⟩⟩
  have hexec := execEmbed_of_fits hpix (congrArg BitVec.toNat hlen)
  refine ⟨_, hexec, exec_keepsFixed (i := .embed) hexec, ⟨rfl, rfl, rfl⟩, fun i hi => ?_,
    fun i hi => (execEmbed_pixCell hexec rfl i).trans (if_neg (Nat.not_lt.mpr hi)), by simp⟩
  rw [(execEmbed_pixCell hexec rfl i).trans (if_pos hi)]
  refine ⟨by rw [embedByte_getLsbD, if_pos rfl], fun k hk => ?_⟩
  rw [embedByte_getLsbD, if_neg (Nat.ne_of_gt hk)]

/-! ## EXTRACT -/

theorem execExtract_of_too_long (hpix : s.pixMax < s.opN) : execExtract s = .next (s.onlyStatus .lengthRange) := by
  rw [execExtract, if_pos hpix, raise_eq, onlyStatus_eq]

theorem execExtract_of_fits (hpix : s.opN ≤ s.pixMax) :
    execExtract s = .next (((s.writeBit 0 (extract (s.pixTo s.opN))).setBitlen s.pixcnt).complete .ok) := by
  rw [execExtract, if_neg (Nat.not_lt.mpr hpix), commit_eq]

theorem State.extract_pixTo_length (n : Nat) : (extract (s.pixTo n)).length = n := by
  rw [extract_length, State.pixTo_length]

/-- Bit plane 0 of the carrier, cell by cell (R161). -/
theorem State.extract_pixTo_getD {n i : Nat} (hi : i < n) (d : Bit) :
    (extract (s.pixTo n)).getD i d = (s.pixCell i).getLsbD 0 := by
  rw [List.getD_eq_getElem _ _ (by rw [State.extract_pixTo_length]; exact hi), extract_getElem, State.pixTo_getElem]

/-- An EXTRACT that succeeds writes bit plane 0 of the carrier to the front of BIT (R163). -/
theorem execExtract_wroteBit (h : execExtract s = .next t) (hok : t.errcode = .ok) :
    s.WroteBit t (extract (s.pixTo s.opN)) := by
  rcases execExtract_cases h with ⟨rfl, -⟩ | ⟨-, rfl⟩
  · cases hok
  · exact ⟨rfl, rfl⟩

theorem execExtract_plane (h : execExtract s = .next t) (hok : t.errcode = .ok) {i : Nat} (hi : i < s.opN) :
    t.bitCell i = (s.pixCell i).getLsbD 0 := by
  rw [← State.bitTo_getD hi false, (execExtract_wroteBit h hok).bitTo (State.extract_pixTo_length s.opN),
    State.extract_pixTo_getD hi]

theorem execExtract_behind (h : execExtract s = .next t) (hok : t.errcode = .ok) {i : Nat} (hi : s.opN ≤ i) :
    t.bitCell i = s.bitCell i :=
  (execExtract_wroteBit h hok).bitCell_behind ((State.extract_pixTo_length s.opN).trans_le hi)

/-- Settles O52: the one check, then bit plane 0 of the carrier in BIT and PIXCNT in BITLEN. -/
theorem extractCommand : Obligations.ExtractCommand := by
  refine ⟨decode_encode .extract, fun s => ⟨execExtract_of_too_long, fun hpix => ?_⟩⟩
  have hexec := execExtract_of_fits hpix
  exact ⟨_, hexec, exec_keepsFixed (i := .extract) hexec, ⟨rfl, rfl, rfl⟩, rfl, fun i => execExtract_plane hexec rfl,
    fun i => execExtract_behind hexec rfl, by simp⟩

end Sys2Proof.Machine
end

section
/-! PROOFS. The Pipeline family: ENCODE and DECODE, the sequences of commands they equal, and that DECODE recovers
what ENCODE has concealed.

An ENCODE that succeeds from `s` leaves one sequence, `s.encodedFrame`, both in BIT and in bit plane 0 of PIX. A DECODE
that succeeds from `s` reads the header value `s.pixHeader` from that plane, and leaves the payload bits `s.decodedBits`
at the front of BIT and their bytes in PAY. What the statements say of single cells, and the round trip, are read off
these equations. The sequences are run command by command (`runCommands_cons_of_ok`), each command's equation naming the
bit sequence that the one before has left. -/

namespace Sys2Proof.Machine

variable {s t u : State}

/-! ## ENCODE -/

theorem execEncode_of_too_long (h : s.payMax < s.opP ∨ s.pixMax < s.opN) :
    execEncode s = .next (s.onlyStatus .lengthRange) := by
  rw [execEncode]
  by_cases hpay : s.payMax < s.opP
  · rw [if_pos hpay, raise_eq, onlyStatus_eq]
  · rw [if_neg hpay, if_pos (h.resolve_left hpay), raise_eq, onlyStatus_eq]

theorem execEncode_of_no_room (hpay : s.opP ≤ s.payMax) (hpix : s.opN ≤ s.pixMax) (hroom : s.opN ≤ 8 * s.opP + 32) :
    execEncode s = .next (s.onlyStatus .capacityExceeded) := by
  rw [execEncode, if_neg (Nat.not_lt.mpr hpay), if_neg (Nat.not_lt.mpr hpix), if_pos ((guardRejects_iff _ _).mpr hroom),
    raise_eq, onlyStatus_eq]

theorem execEncode_of_room (hpay : s.opP ≤ s.payMax) (hpix : s.opN ≤ s.pixMax) (hroom : 8 * s.opP + 32 < s.opN) :
    execEncode s = .next ((((((s.writePix 0 (embed (s.pixTo s.opN) s.encodedFrame)).writeBit 0 s.encodedFrame).setBitlen
      s.pixcnt).setHdrval (BitVec.ofNat 32 (8 * s.opP))).usedFiller).complete .ok) := by
  rw [execEncode, if_neg (Nat.not_lt.mpr hpay), if_neg (Nat.not_lt.mpr hpix), if_neg (guardRejects_of_room hroom),
    commit_eq]

theorem State.bytesToBits_payTo_length (n : Nat) : (bytesToBits (s.payTo n)).length = 8 * n := by
  rw [bytesToBits_length, State.payTo_length]

/-- The header of a payload that fits is not cut by its register. -/
theorem State.toNat_ofNat_of_le_opN {n : Nat} (h : n ≤ s.opN) : (BitVec.ofNat 32 n).toNat = n := by
  rw [BitVec.toNat_ofNat, Nat.mod_eq_of_lt (h.trans_lt s.pixcnt.isLt)]

/-- An ENCODE that succeeds writes the frame of the payload to BIT (R180). -/
theorem execEncode_ok (h : execEncode s = .next t) (hok : t.errcode = .ok) :
    s.opP ≤ s.payMax ∧ s.opN ≤ s.pixMax ∧ 8 * s.opP + 32 < s.opN ∧ s.WroteBit t s.encodedFrame := by
  rcases execEncode_cases h with ⟨rfl, -⟩ | ⟨rfl, -⟩ | ⟨hpay, hpix, hroom, rfl⟩
  · cases hok
  · cases hok
  · exact ⟨hpay, hpix, hroom, by simp, by simp⟩

theorem execEncode_bitTo (h : execEncode s = .next t) (hok : t.errcode = .ok) : t.bitTo s.opN = s.encodedFrame := by
  obtain ⟨-, -, hroom, hwrote⟩ := execEncode_ok h hok
  exact hwrote.bitTo (State.encodedFrame_length hroom.le)

theorem execEncode_behind (h : execEncode s = .next t) (hok : t.errcode = .ok) {i : Nat} (hi : s.opN ≤ i) :
    t.bitCell i = s.bitCell i := by
  obtain ⟨-, -, hroom, hwrote⟩ := execEncode_ok h hok
  exact hwrote.bitCell_behind ((State.encodedFrame_length hroom.le).trans_le hi)

theorem execEncode_headerAt (h : execEncode s = .next t) (hok : t.errcode = .ok) :
    HeaderAt t.bitCell (BitVec.ofNat 32 (8 * s.opP)) := by
  have hheader := State.headerAt_of_bitTo_eq_frameBits (execEncode_bitTo h hok)
  rwa [State.bytesToBits_payTo_length] at hheader

theorem execEncode_payload (h : execEncode s = .next t) (hok : t.errcode = .ok) {j k : Nat} (hj : j < s.opP)
    (hk : k < 8) : t.bitCell (32 + (8 * j + k)) = (s.payCell j).getLsbD (7 - k) := by
  rw [State.bitCell_of_bitTo_eq_frameBits (execEncode_bitTo h hok)
    (by rw [State.bytesToBits_payTo_length]; omega) false, List.getD_eq_getElem?_getD, bytesToBits_getElem? _ j k hk,
    List.getElem?_eq_getElem (by rw [State.payTo_length]; exact hj)]
  simp

/-- Where BIT holds a frame with the zero filler, its cells behind the payload are 0. -/
theorem State.bitCell_of_bitTo_eq_zero_filled {p : List Bit} {c m i : Nat}
    (h : t.bitTo c = frameBits p (s.filler m)) (hfill : s.curFill = false) (hi : p.length + 32 ≤ i) (hic : i < c) :
    t.bitCell i = false := by
  obtain ⟨k, rfl⟩ := Nat.exists_eq_add_of_le hi
  rw [← State.bitTo_getD hic false, h, frameBits_getD_filler rfl]
  simp [State.filler, hfill, zeros]

theorem execEncode_zeros (h : execEncode s = .next t) (hok : t.errcode = .ok) (hfill : s.curFill = false) {i : Nat}
    (hi : 8 * s.opP + 32 ≤ i) (hiN : i < s.opN) : t.bitCell i = false :=
  State.bitCell_of_bitTo_eq_zero_filled (execEncode_bitTo h hok) hfill
    (by rw [State.bytesToBits_payTo_length]; exact hi) hiN

/-- An ENCODE that succeeds embeds the sequence it has left in BIT (R180). -/
theorem execEncode_pix (h : execEncode s = .next t) (hok : t.errcode = .ok) :
    t.pix = (s.writePix 0 (embed (s.pixTo s.opN) (t.bitTo s.opN))).pix := by
  rw [execEncode_bitTo h hok]
  rcases execEncode_cases h with ⟨rfl, -⟩ | ⟨rfl, -⟩ | ⟨-, -, -, rfl⟩
  · cases hok
  · cases hok
  · rfl

theorem execEncode_pixCell (h : execEncode s = .next t) (hok : t.errcode = .ok) (i : Nat) :
    t.pixCell i = if i < s.opN then embedByte (s.pixCell i) (t.bitCell i) else s.pixCell i := by
  have hepoch : t.epoch = s.epoch := (exec_keepsFixed (i := .encode) h).epoch
  rw [State.pixCell_congr (execEncode_pix h hok) hepoch, State.pixCell_writePix_embed (t.bitTo_length s.opN)]
  simp

/-- Settles O53: the three checks in their order, then the frame in BIT and, embedded, in PIX; the parts of the frame
are the header of `8 * PAYLEN`, the payload's bits and the filler. -/
theorem encodeCommand : Obligations.EncodeCommand := by
  refine ⟨decode_encode .encode, fun s => ⟨fun h => execEncode_of_too_long (.inl h),
    fun h => execEncode_of_too_long (.inr h), execEncode_of_no_room, fun hpay hpix hroom => ?_⟩⟩
  have hexec := execEncode_of_room hpay hpix hroom
  have hcell := execEncode_pixCell hexec rfl
  refine ⟨_, hexec, exec_keepsFixed (i := .encode) hexec, ⟨rfl, rfl, rfl⟩, rfl,
    s.toNat_ofNat_of_le_opN (Nat.le_of_add_right_le hroom.le), execEncode_headerAt hexec rfl,
    fun j k => execEncode_payload hexec rfl, fun hfill i => execEncode_zeros hexec rfl hfill, fun i hi => ?_,
    fun i hi => ⟨(hcell i).trans (if_neg (Nat.not_lt.mpr hi)), execEncode_behind hexec rfl hi⟩, ?_⟩
  · rw [(hcell i).trans (if_pos hi)]
    refine ⟨by rw [embedByte_getLsbD, if_pos rfl], fun k hk => ?_⟩
    rw [embedByte_getLsbD, if_neg (Nat.ne_of_gt hk)]
  · simp +contextual

/-! ## DECODE -/

theorem execDecode_of_too_long (hpix : s.pixMax < s.opN) : execDecode s = .next (s.onlyStatus .lengthRange) := by
  rw [execDecode, if_pos hpix, raise_eq, onlyStatus_eq]

theorem execDecode_of_short (hpix : s.opN ≤ s.pixMax) (hshort : s.opN < Config.hdrBits) :
    execDecode s = .next (s.onlyStatus .headerCorrupt) := by
  rw [execDecode, if_neg (Nat.not_lt.mpr hpix), if_pos hshort, raise_eq, onlyStatus_eq]

theorem execDecode_of_truncated (hpix : s.opN ≤ s.pixMax) (hfull : Config.hdrBits ≤ s.opN)
    (htrunc : s.opN < s.pixHeader.toNat + Config.hdrBits) : execDecode s = .next (s.onlyStatus .truncatedPayload) := by
  rw [execDecode, if_neg (Nat.not_lt.mpr hpix), if_neg (Nat.not_lt.mpr hfull), if_pos htrunc, raise_eq, onlyStatus_eq]

theorem execDecode_of_ragged (hpix : s.opN ≤ s.pixMax) (hfits : s.pixHeader.toNat + Config.hdrBits ≤ s.opN)
    (hragged : s.pixHeader.toNat % 8 ≠ 0) : execDecode s = .next (s.onlyStatus .malformedLength) := by
  rw [execDecode, if_neg (Nat.not_lt.mpr hpix), if_neg (by omega), if_neg (Nat.not_lt.mpr hfits), if_pos hragged,
    raise_eq, onlyStatus_eq]

theorem execDecode_of_payload_too_long (hpix : s.opN ≤ s.pixMax)
    (hfits : s.pixHeader.toNat + Config.hdrBits ≤ s.opN) (hwhole : s.pixHeader.toNat % 8 = 0)
    (hpay : s.payMax < s.pixHeader.toNat / 8) : execDecode s = .next (s.onlyStatus .lengthRange) := by
  rw [execDecode, if_neg (Nat.not_lt.mpr hpix), if_neg (by omega), if_neg (Nat.not_lt.mpr hfits),
    if_neg (not_not_intro hwhole), if_pos hpay, raise_eq, onlyStatus_eq]

/-- What DECODE leaves in BIT: the payload bits over the front of the extracted sequence (R181). -/
def State.decodedSequence (s : State) : List Bit :=
  s.decodedBits ++ (extract (s.pixTo s.opN)).drop s.pixHeader.toNat

theorem execDecode_of_fits (hpix : s.opN ≤ s.pixMax) (hfits : s.pixHeader.toNat + Config.hdrBits ≤ s.opN)
    (hwhole : s.pixHeader.toNat % 8 = 0) (hpay : s.pixHeader.toNat / 8 ≤ s.payMax) :
    execDecode s = .next ((((((s.writeBit 0 s.decodedSequence).setBitlen s.pixHeader).setHdrval
      s.pixHeader).writePay 0 (packBits s.decodedBits)).setPaylen
      (BitVec.ofNat 32 (s.pixHeader.toNat / 8))).complete .ok) := by
  rw [execDecode, if_neg (Nat.not_lt.mpr hpix), if_neg (by omega), if_neg (Nat.not_lt.mpr hfits),
    if_neg (not_not_intro hwhole), if_neg (Nat.not_lt.mpr hpay), commit_eq, State.decodedSequence]

/-- The header value that DECODE reads is the one that bit plane 0 of the carrier holds. -/
theorem State.pixHeader_eq_iff {v : Word} : s.pixHeader = v ↔ HeaderAt (fun i => (s.pixCell i).getLsbD 0) v := by
  rw [← headerValue_eq_iff_headerAt, State.pixHeader, extract, State.pixTo, List.map_map, hdrBits_eq]
  rfl

/-- Only the first 32 pixels carry the header. -/
theorem State.headerValue_extract_pixTo {n : Nat} (h : 32 ≤ n) : headerValue (extract (s.pixTo n)) = s.pixHeader := by
  rw [State.pixHeader, hdrBits_eq, ← State.pixTo_take s h, extract, extract, List.map_take, headerValue_take le_rfl]

theorem State.decodedBits_length_of_whole (hfits : s.pixHeader.toNat + 32 ≤ s.opN)
    (hwhole : s.pixHeader.toNat % 8 = 0) : s.decodedBits.length = 8 * (s.pixHeader.toNat / 8) := by
  rw [State.decodedBits_length hfits]
  omega

theorem State.decodedSequence_length (hfits : s.pixHeader.toNat + 32 ≤ s.opN) :
    s.decodedSequence.length = s.opN := by
  rw [State.decodedSequence, List.length_append, State.decodedBits_length hfits, List.length_drop,
    State.extract_pixTo_length]
  omega

/-- The payload bits stand behind the 32 pixels of the header (R181). -/
theorem State.decodedSequence_getD_payload (hfits : s.pixHeader.toNat + 32 ≤ s.opN) {i : Nat}
    (hi : i < s.pixHeader.toNat) (d : Bit) : s.decodedSequence.getD i d = (s.pixCell (32 + i)).getLsbD 0 := by
  rw [State.decodedSequence, List.getD_append _ _ _ _ (by rw [State.decodedBits_length hfits]; exact hi),
    State.decodedBits, framePayload_getD _ hi, State.extract_pixTo_getD (by omega)]

theorem State.decodedSequence_getD_rest (hfits : s.pixHeader.toNat + 32 ≤ s.opN) {i : Nat}
    (hi : s.pixHeader.toNat ≤ i) (hiN : i < s.opN) (d : Bit) :
    s.decodedSequence.getD i d = (s.pixCell i).getLsbD 0 := by
  rw [State.decodedSequence, List.getD_append_right _ _ _ _ (by rw [State.decodedBits_length hfits]; exact hi),
    State.decodedBits_length hfits, List.getD_eq_getElem?_getD, List.getElem?_drop, Nat.add_sub_cancel' hi,
    ← List.getD_eq_getElem?_getD, State.extract_pixTo_getD hiN]

/-- A DECODE that succeeds writes the payload's bits to BIT and its bytes to PAY (R181). -/
theorem execDecode_ok (h : execDecode s = .next t) (hok : t.errcode = .ok) :
    s.opN ≤ s.pixMax ∧ s.pixHeader.toNat + 32 ≤ s.opN ∧ s.pixHeader.toNat % 8 = 0 ∧
      s.pixHeader.toNat / 8 ≤ s.payMax ∧ t.opP = s.pixHeader.toNat / 8 ∧ s.WroteBit t s.decodedSequence ∧
      t.pay = s.pay.write 0 (packBits s.decodedBits) := by
  rcases execDecode_cases h with ⟨rfl, -⟩ | ⟨rfl, -⟩ | ⟨rfl, -⟩ | ⟨rfl, -⟩ | ⟨hpix, hfits, hwhole, hpay, rfl⟩
  · cases hok
  · cases hok
  · cases hok
  · cases hok
  · have hlen : (BitVec.ofNat 32 (s.pixHeader.toNat / 8)).toNat = s.pixHeader.toNat / 8 :=
      State.toNat_ofNat_of_le_opN (s := s) (by omega)
    exact ⟨hpix, hfits, hwhole, hpay, hlen, ⟨by simp [State.decodedSequence], by simp⟩, by simp⟩

theorem execDecode_bitTo (h : execDecode s = .next t) (hok : t.errcode = .ok) :
    t.bitTo s.opN = s.decodedSequence := by
  obtain ⟨-, hfits, -, -, -, hwrote, -⟩ := execDecode_ok h hok
  exact hwrote.bitTo (State.decodedSequence_length hfits)

theorem execDecode_behind (h : execDecode s = .next t) (hok : t.errcode = .ok) {i : Nat} (hi : s.opN ≤ i) :
    t.bitCell i = s.bitCell i := by
  obtain ⟨-, hfits, -, -, -, hwrote, -⟩ := execDecode_ok h hok
  exact hwrote.bitCell_behind ((State.decodedSequence_length hfits).trans_le hi)

theorem execDecode_payload (h : execDecode s = .next t) (hok : t.errcode = .ok) {i : Nat}
    (hi : i < s.pixHeader.toNat) : t.bitCell i = (s.pixCell (32 + i)).getLsbD 0 := by
  obtain ⟨-, hfits, -⟩ := execDecode_ok h hok
  rw [← State.bitTo_getD (n := s.opN) (by omega) false, execDecode_bitTo h hok,
    State.decodedSequence_getD_payload hfits hi]

theorem execDecode_rest (h : execDecode s = .next t) (hok : t.errcode = .ok) {i : Nat}
    (hi : s.pixHeader.toNat ≤ i) (hiN : i < s.opN) : t.bitCell i = (s.pixCell i).getLsbD 0 := by
  obtain ⟨-, hfits, -⟩ := execDecode_ok h hok
  rw [← State.bitTo_getD hiN false, execDecode_bitTo h hok, State.decodedSequence_getD_rest hfits hi hiN]

/-- The bits of the recovered payload are those that DECODE has read (R181). -/
theorem execDecode_payTo (h : execDecode s = .next t) (hok : t.errcode = .ok) :
    bytesToBits (t.payTo (s.pixHeader.toNat / 8)) = s.decodedBits := by
  obtain ⟨-, hfits, hwhole, -, -, ⟨-, hepoch⟩, hpay⟩ := execDecode_ok h hok
  have hlen := State.decodedBits_length_of_whole hfits hwhole
  rw [State.payTo_congr (s := s.writePay 0 (packBits s.decodedBits)) hpay hepoch,
    State.payTo_writePay _ (packBits_length _ _ hlen), bytesToBits_packBits _ _ hlen]

/-- The front of BIT holds the bits of the recovered payload. -/
theorem execDecode_bitTo_payTo (h : execDecode s = .next t) (hok : t.errcode = .ok) :
    t.bitTo (8 * (s.pixHeader.toNat / 8)) = bytesToBits (t.payTo (s.pixHeader.toNat / 8)) := by
  obtain ⟨-, hfits, hwhole, -⟩ := execDecode_ok h hok
  rw [execDecode_payTo h hok, ← State.bitTo_take t (n := s.opN) (by omega), execDecode_bitTo h hok,
    State.decodedSequence, List.take_left' (State.decodedBits_length_of_whole hfits hwhole)]

theorem execDecode_payCell (h : execDecode s = .next t) (hok : t.errcode = .ok) {j k : Nat}
    (hj : j < s.pixHeader.toNat / 8) (hk : k < 8) :
    (t.payCell j).getLsbD (7 - k) = (s.pixCell (32 + (8 * j + k))).getLsbD 0 := by
  rw [← State.bitCell_of_bitTo_eq (execDecode_bitTo_payTo h hok) hj hk, execDecode_payload h hok (by omega)]

theorem execDecode_payCell_behind (h : execDecode s = .next t) (hok : t.errcode = .ok) {j : Nat}
    (hj : s.pixHeader.toNat / 8 ≤ j) : t.payCell j = s.payCell j := by
  obtain ⟨-, hfits, hwhole, -, -, ⟨-, hepoch⟩, hpay⟩ := execDecode_ok h hok
  have hlen := State.decodedBits_length_of_whole hfits hwhole
  rw [State.payCell_congr (s := s.writePay 0 (packBits s.decodedBits)) hpay hepoch,
    State.payCell_writePay_of_le ((packBits_length _ _ hlen).trans_le hj)]

/-- Settles O54: `v` is the header value that DECODE reads; the five checks in their order, then the payload's bits in
BIT and its bytes in PAY. -/
theorem decodeCommand : Obligations.DecodeCommand := by
  refine ⟨decode_encode .decode, fun s v hheader => ?_⟩
  obtain rfl := State.pixHeader_eq_iff.mpr hheader
  refine ⟨execDecode_of_too_long, execDecode_of_short, execDecode_of_truncated, execDecode_of_ragged,
    execDecode_of_payload_too_long, fun hpix hfits hwhole hpay => ?_⟩
  have hexec := execDecode_of_fits hpix hfits hwhole hpay
  obtain ⟨-, -, -, -, hlen, -, -⟩ := execDecode_ok hexec rfl
  exact ⟨_, hexec, exec_keepsFixed (i := .decode) hexec, ⟨rfl, rfl, rfl⟩, rfl, rfl, hlen,
    fun i => execDecode_payload hexec rfl, fun i => execDecode_rest hexec rfl, fun i => execDecode_behind hexec rfl,
    fun j k => execDecode_payCell hexec rfl, fun j => execDecode_payCell_behind hexec rfl, by simp⟩

/-! ## DECODE after ENCODE -/

/-- Bit plane 0 of the pixels that ENCODE leaves is the frame (R180). -/
theorem execEncode_extract (h : execEncode s = .next t) (hok : t.errcode = .ok) :
    extract (t.pixTo s.opN) = s.encodedFrame := by
  have hepoch : t.epoch = s.epoch := (exec_keepsFixed (i := .encode) h).epoch
  have hpixels : t.pixTo s.opN = embed (s.pixTo s.opN) (t.bitTo s.opN) := by
    rw [State.pixTo_congr fun i _ => State.pixCell_congr (execEncode_pix h hok) hepoch i,
      State.pixTo_writePix _ (by rw [embed_length (by simp), State.pixTo_length])]
  rw [hpixels, extract_embed (by simp), execEncode_bitTo h hok]

/-- A carrier whose bit plane 0 is the frame of `s` decodes to the payload of `s`. -/
theorem State.decoded_of_extract_eq_encodedFrame (hroom : 8 * s.opP + 32 ≤ s.opN)
    (h : extract (u.pixTo u.opN) = s.encodedFrame) :
    u.pixHeader.toNat = 8 * s.opP ∧ u.decodedBits = bytesToBits (s.payTo s.opP) := by
  have hlen : u.opN = s.opN := by
    rw [← State.extract_pixTo_length (s := u) u.opN, h, State.encodedFrame_length hroom]
  have hheader : u.pixHeader.toNat = 8 * s.opP := by
    rw [← State.headerValue_extract_pixTo (n := u.opN) (by omega), h, State.encodedFrame, headerValue_frameBits,
      State.bytesToBits_payTo_length, s.toNat_ofNat_of_le_opN (Nat.le_of_add_right_le hroom)]
  refine ⟨hheader, ?_⟩
  rw [State.decodedBits, h, hheader, State.encodedFrame, ← State.bytesToBits_payTo_length s.opP, framePayload_frameBits]

/-- Settles O60: the carrier that ENCODE leaves passes every check of DECODE, and the payload bits it yields are those
of the payload, of which there is only one. -/
theorem encodeDecodeRoundTrip : Obligations.EncodeDecodeRoundTrip := by
  intro s t u hencode hok hpixMax hpayMax hpixcnt hpixels
  obtain ⟨hpay, hpix, hroom, -⟩ := execEncode_ok hencode hok
  have hkeep := exec_keepsFixed hencode
  have hN : u.opN = s.opN := congrArg BitVec.toNat (hpixcnt.trans hkeep.pixcnt)
  have hplane : extract (u.pixTo u.opN) = s.encodedFrame := by
    rw [hN, State.pixTo_congr (s := t) fun i hi => hpixels i (by rw [hkeep.pixcnt]; exact hi),
      execEncode_extract hencode hok]
  obtain ⟨hheader, hbits⟩ := State.decoded_of_extract_eq_encodedFrame hroom.le hplane
  have hP : u.pixHeader.toNat / 8 = s.opP := by omega
  obtain ⟨v, hdecode, hvok⟩ : ∃ v, execDecode u = .next v ∧ v.errcode = .ok :=
    ⟨_, execDecode_of_fits (by rw [hN, hpixMax, hkeep.pixMax]; exact hpix) (by rw [hheader, hN]; exact hroom.le)
      (by omega) (by rw [hP, hpayMax, hkeep.payMax]; exact hpay), rfl⟩
  obtain ⟨-, -, -, -, hlen, -, -⟩ := execDecode_ok hdecode hvok
  have hpayload := execDecode_payTo hdecode hvok
  rw [hP, hbits] at hpayload
  exact ⟨v, hdecode, hvok, BitVec.eq_of_toNat_eq (hlen.trans hP),
    fun j => State.payCell_of_payTo_eq (bytesToBits_injective hpayload)⟩

/-! ## Slices after an update of something else -/

@[simp] theorem State.complete_bitTo (c : ErrCode) (n : Nat) : (s.complete c).bitTo n = s.bitTo n := rfl
@[simp] theorem State.setBitlen_bitTo (v : Word) (n : Nat) : (s.setBitlen v).bitTo n = s.bitTo n := rfl
@[simp] theorem State.setHdrval_bitTo (v : Word) (n : Nat) : (s.setHdrval v).bitTo n = s.bitTo n := rfl
@[simp] theorem State.accept_pixTo (w : Word) (n : Nat) : (s.accept w).pixTo n = s.pixTo n := rfl
@[simp] theorem State.complete_pixTo (c : ErrCode) (n : Nat) : (s.complete c).pixTo n = s.pixTo n := rfl
@[simp] theorem State.setBitlen_pixTo (v : Word) (n : Nat) : (s.setBitlen v).pixTo n = s.pixTo n := rfl
@[simp] theorem State.setHdrval_pixTo (v : Word) (n : Nat) : (s.setHdrval v).pixTo n = s.pixTo n := rfl
@[simp] theorem State.usedFiller_pixTo (n : Nat) : s.usedFiller.pixTo n = s.pixTo n := rfl
@[simp] theorem State.writeBit_pixTo (m : Nat) (vs : List Bit) (n : Nat) : (s.writeBit m vs).pixTo n = s.pixTo n := rfl

/-! ## Single commands, accepted and completed

Each equation names the bit sequence that the command finds, so that it can follow the command that has left it. -/

theorem runCommands_cons_of_ok {i : Instr} {l : List Instr} (h : runCommand i s = .next (u.complete .ok)) :
    runCommands (i :: l) s = runCommands l (u.complete .ok) := by
  simp [runCommands, h]

/-- Acceptance sets all that the completion before it has set (R209, R210). -/
theorem runCommands_cons_complete (i : Instr) (l : List Instr) (c : ErrCode) :
    runCommands (i :: l) (s.complete c) = runCommands (i :: l) s := rfl

theorem runCommand_extract (hpix : s.opN ≤ s.pixMax) :
    runCommand .extract s = .next (((s.writeBit 0 (extract (s.pixTo s.opN))).setBitlen s.pixcnt).complete .ok) :=
  execExtract_of_fits (s := s.accept (encode .extract)) hpix

theorem runCommand_unframe {f : List Bit} {v : Word} (hbits : s.bitTo s.opB = f) (hmax : s.opB ≤ s.pixMax)
    (hheader : headerValue f = v) (hfits : v.toNat + 32 ≤ s.opB) :
    runCommand .unframe s =
      .next ((((s.writeBit 0 (framePayload f v.toNat)).setBitlen v).setHdrval v).complete .ok) := by
  obtain rfl : s.bitHeader = v := by rw [← State.headerValue_bitTo (n := s.opB) (by omega), hbits, hheader]
  rw [← hbits]
  exact execUnframe_of_fits (s := s.accept (encode .unframe)) hmax hfits

theorem runCommand_bitsToBytes {p : List Bit} (hbits : s.bitTo s.opB = p) (hmax : s.opB ≤ s.pixMax)
    (hwhole : s.opB % 8 = 0) (hpay : s.opB / 8 ≤ s.payMax) :
    runCommand .bitsToBytes s =
      .next (((s.writePay 0 (packBits p)).setPaylen (BitVec.ofNat 32 (s.opB / 8))).complete .ok) := by
  rw [← hbits]
  exact execBitsToBytes_of_fits (s := s.accept (encode .bitsToBytes)) hmax hwhole hpay

theorem runCommand_bytesToBits (hpay : s.opP ≤ s.payMax) (hbit : 8 * s.opP ≤ s.pixMax) :
    runCommand .bytesToBits s = .next (((s.writeBit 0 (bytesToBits (s.payTo s.opP))).setBitlen
      (BitVec.ofNat 32 (8 * s.opP))).complete .ok) :=
  execBytesToBits_of_fits (s := s.accept (encode .bytesToBits)) hpay hbit

theorem runCommand_check (hbit : s.opB ≤ s.pixMax) (hpix : s.opN ≤ s.pixMax) (hroom : s.opB + 32 < s.opN) :
    runCommand .check s = .next (s.complete .ok) :=
  execCheck_of_room (s := s.accept (encode .check)) hbit hpix hroom

theorem runCommand_frame {p : List Bit} (hbits : s.bitTo s.opB = p) (hbit : s.opB ≤ s.pixMax)
    (hpix : s.opN ≤ s.pixMax) (hroom : s.opB + 32 ≤ s.opN) :
    runCommand .frame s = .next (((((s.accept (encode .frame)).writeBit 0 (frameBits p
      ((s.accept (encode .frame)).filler (s.opN - Config.hdrBits - s.opB)))).setBitlen s.pixcnt).setHdrval
      s.bitlen).usedFiller.complete .ok) := by
  rw [← hbits]
  exact execFrame_of_fits (s := s.accept (encode .frame)) hbit hpix hroom

theorem runCommand_embed {f : List Bit} (hbits : s.bitTo s.opN = f) (hpix : s.opN ≤ s.pixMax) (hlen : s.opB = s.opN) :
    runCommand .embed s = .next ((s.writePix 0 (embed (s.pixTo s.opN) f)).complete .ok) := by
  rw [← hbits]
  exact execEmbed_of_fits (s := s.accept (encode .embed)) hpix hlen

/-! ## DECODE is EXTRACT, UNFRAME, BITS_TO_BYTES -/

theorem runCommands_unframe_bitsToBytes {f : List Bit} {v : Word} (hbits : s.bitTo s.opB = f)
    (hmax : s.opB ≤ s.pixMax) (hheader : headerValue f = v) (hfits : v.toNat + 32 ≤ s.opB) (hwhole : v.toNat % 8 = 0)
    (hpay : v.toNat / 8 ≤ s.payMax) :
    runCommands [.unframe, .bitsToBytes] s = some ((((((s.writeBit 0 (framePayload f v.toNat)).setBitlen v).setHdrval
      v).writePay 0 (packBits (framePayload f v.toNat))).setPaylen (BitVec.ofNat 32 (v.toNat / 8))).complete .ok) := by
  have hlen : (framePayload f v.toNat).length = v.toNat := by rw [← hbits, State.framePayload_bitTo_length hfits]
  have hpayload : (s.writeBit 0 (framePayload f v.toNat)).bitTo v.toNat = framePayload f v.toNat :=
    State.bitTo_writeBit s hlen
  rw [runCommands_cons_of_ok (runCommand_unframe hbits hmax hheader hfits),
    runCommands_cons_of_ok (runCommand_bitsToBytes (by simpa [State.opB] using hpayload)
      (by change v.toNat ≤ s.pixMax; omega) (by simpa [State.opB] using hwhole) (by simpa [State.opB] using hpay))]
  rw [runCommands, Option.some_inj]
  apply State.ext <;> simp [State.opB]

/-- Writing the payload bits over the extracted sequence leaves what DECODE leaves in BIT (R182). -/
theorem State.write_decodedBits (hfits : s.pixHeader.toNat + 32 ≤ s.opN) :
    (s.bit.write 0 (extract (s.pixTo s.opN))).write 0 s.decodedBits = s.bit.write 0 s.decodedSequence := by
  have hlen := State.decodedBits_length hfits
  rw [Memory.write_write _ _ (by rw [hlen, State.extract_pixTo_length]; omega), hlen, State.decodedSequence]

/-- A DECODE that succeeds, from its acceptance on. -/
theorem runCommands_decode (h : runCommands [.decode] s = some t) :
    s.opN ≤ s.pixMax ∧ s.pixHeader.toNat + 32 ≤ s.opN ∧ s.pixHeader.toNat % 8 = 0 ∧
      s.pixHeader.toNat / 8 ≤ s.payMax ∧
      t = (((((s.writeBit 0 s.decodedSequence).setBitlen s.pixHeader).setHdrval s.pixHeader).writePay 0
        (packBits s.decodedBits)).setPaylen (BitVec.ofNat 32 (s.pixHeader.toNat / 8))).complete .ok := by
  obtain ⟨v, hdecode, hok, hend⟩ := runCommands_cons.mp h
  obtain rfl : v = t := Option.some.inj hend
  obtain ⟨hpix, hfits, hwhole, hpay, -⟩ := execDecode_ok hdecode hok
  exact ⟨hpix, hfits, hwhole, hpay,
    Host.Outcome.next.inj (hdecode.symm.trans (execDecode_of_fits hpix hfits hwhole hpay))⟩

/-- Settles O59: EXTRACT leaves in BIT the sequence that DECODE reads, UNFRAME its payload bits, and BITS_TO_BYTES
packs them; the end states agree field by field. -/
theorem decodeEqualsItsSequence : Obligations.DecodeEqualsItsSequence := by
  intro s t h
  obtain ⟨hpix, hfits, hwhole, hpay, rfl⟩ := runCommands_decode h
  rw [runCommands_cons_of_ok (runCommand_extract hpix)]
  generalize ha : State.complete _ _ = a
  have hlen : a.opB = s.opN := by rw [← ha]; rfl
  have hplane : a.bitTo a.opB = extract (s.pixTo s.opN) := by
    rw [hlen, ← ha]
    exact State.bitTo_writeBit s (State.extract_pixTo_length _)
  rw [runCommands_unframe_bitsToBytes hplane (by rw [hlen, ← ha]; exact hpix)
    (State.headerValue_extract_pixTo (by omega)) (by rw [hlen]; exact hfits) hwhole (by rw [← ha]; exact hpay),
    Option.some_inj, ← State.decodedBits, ← ha]
  apply State.ext <;> simp [State.write_decodedBits hfits]

/-! ## ENCODE is BYTES_TO_BITS, CHECK, FRAME, EMBED -/

/-- An ENCODE that succeeds, from its acceptance on. -/
theorem runCommands_encode (h : runCommands [.encode] s = some t) :
    s.opP ≤ s.payMax ∧ s.opN ≤ s.pixMax ∧ 8 * s.opP + 32 < s.opN ∧
      ∃ f, f = frameBits (bytesToBits (s.payTo s.opP))
          ((s.accept (encode .encode)).filler (s.opN - Config.hdrBits - 8 * s.opP)) ∧
        t = ((((((s.accept (encode .encode)).writePix 0 (embed (s.pixTo s.opN) f)).writeBit 0 f).setBitlen
          s.pixcnt).setHdrval (BitVec.ofNat 32 (8 * s.opP))).usedFiller).complete .ok := by
  obtain ⟨v, hencode, hok, hend⟩ := runCommands_cons.mp h
  obtain rfl : v = t := Option.some.inj hend
  obtain ⟨hpay, hpix, hroom, -⟩ := execEncode_ok hencode hok
  exact ⟨hpay, hpix, hroom, _, rfl,
    Host.Outcome.next.inj (hencode.symm.trans (execEncode_of_room hpay hpix hroom))⟩

/-- From a bit sequence `p` that fits, FRAME and then EMBED leave its frame in BIT and in bit plane 0 of PIX. -/
theorem runCommands_frame_embed {p f : List Bit} (hbits : s.bitTo s.opB = p) (hpix : s.opN ≤ s.pixMax)
    (hroom : s.opB + 32 ≤ s.opN)
    (hf : f = frameBits p ((s.accept (encode .frame)).filler (s.opN - Config.hdrBits - s.opB))) :
    runCommands [.frame, .embed] s = some ((((((s.accept (encode .frame)).writeBit 0 f).setBitlen s.pixcnt).setHdrval
      s.bitlen).usedFiller.writePix 0 (embed (s.pixTo s.opN) f)).complete .ok) := by
  have hlen : f.length = s.opN := by
    rw [hf, frameBits_filler_length (n := s.opB) (by rw [← hbits, State.bitTo_length]) hroom]
  rw [runCommands_cons_of_ok (runCommand_frame hbits (by omega) hpix hroom), ← hf]
  generalize ha : State.complete _ _ = a
  have hopN : a.opN = s.opN := by rw [← ha]; rfl
  have hframed : a.bitTo a.opN = f := by
    rw [hopN, ← ha]
    exact State.bitTo_writeBit _ hlen
  rw [runCommands_cons_of_ok (runCommand_embed hframed (by rw [hopN, ← ha]; exact hpix) (by rw [← ha]; rfl)),
    runCommands, Option.some_inj, hopN, ← ha]
  apply State.ext <;> simp

/-- The filler of an accepted command depends on CTRL.FILL and the number of the draw alone (log entry 4). -/
theorem State.accept_filler_congr (hfill : t.fill = s.fill) (hcount : t.fillCount = s.fillCount) (v w : Word)
    (n : Nat) : (t.accept v).filler n = (s.accept w).filler n := by
  rw [State.filler, State.filler, State.accept_curFill, State.accept_curFill, hfill, State.accept_fillCount,
    State.accept_fillCount, hcount]

/-- Settles O58: BYTES_TO_BITS leaves the payload's bits, CHECK and FRAME make the comparisons of ENCODE, and FRAME
draws the filler that ENCODE draws; the end states agree field by field. -/
theorem encodeEqualsItsSequence : Obligations.EncodeEqualsItsSequence := by
  intro s t h
  obtain ⟨hpay, hpix, hroom, f, hf, rfl⟩ := runCommands_encode h
  rw [runCommands_cons_of_ok (runCommand_bytesToBits hpay (by omega))]
  generalize ha : State.complete _ _ = a
  have hopN : a.opN = s.opN := by rw [← ha]; rfl
  have hmax : a.pixMax = s.pixMax := by rw [← ha]; rfl
  have hlen : a.opB = 8 * s.opP := by
    rw [← ha]
    exact s.toNat_ofNat_of_le_opN (by omega)
  have hbits : a.bitTo a.opB = bytesToBits (s.payTo s.opP) := by
    rw [hlen, ← ha]
    exact State.bitTo_writeBit s (State.bytesToBits_payTo_length _)
  have hframe : f = frameBits (bytesToBits (s.payTo s.opP))
      ((a.accept (encode .frame)).filler (a.opN - Config.hdrBits - a.opB)) := by
    rw [hf, hopN, hlen, State.accept_filler_congr (s := s) (t := a) (by rw [← ha]; rfl) (by rw [← ha]; rfl)]
  have hover : (s.bit.write 0 (bytesToBits (s.payTo s.opP))).write 0 f = s.bit.write 0 f :=
    Memory.write_over _ _ (by rw [hf, frameBits_length]; omega)
  rw [runCommands_cons_of_ok (runCommand_check (by omega) (by omega) (by omega)), runCommands_cons_complete,
    runCommands_frame_embed hbits (by omega) (by omega) hframe, Option.some_inj, hopN, ← ha]
  apply State.ext <;> simp [hover]

end Sys2Proof.Machine
end

section
/-! PROOFS. The exceptions family: the life cycle of a command (acceptance, completion, retry), the codes that each
command can raise, that BUSY rises only by acceptance and falls again, and the interrupt.

What a completion does to STATUS is read off `exec_shape`; what its checks answer is said once, for a state and for the
same state after another completion and acceptance, by `exec_sameAnswer`. -/

namespace Sys2Proof.Machine

variable {s t : State}

/-! ## Completion -/

/-- Every completion is one of STATUS alone upon the commit, or upon the state as it was (R210, R211). -/
theorem exec_eq_complete {i : Instr} (h : exec i s = .next t) :
    ∃ u c, t = u.complete c ∧ (c ≠ .ok → u = s) ∧ s.KeepsFixed u := by
  obtain ⟨c, u, hexec, herror, hkeep⟩ := exec_shape i s
  rw [hexec] at h
  injection h with h
  exact ⟨u, c, h.symm, herror, hkeep⟩

theorem exec_inFlight {i : Instr} (h : exec i s = .next t) : t.inFlight = none := by
  obtain ⟨u, c, rfl, -, -⟩ := exec_eq_complete h
  rfl

theorem exec_done {i : Instr} (h : exec i s = .next t) : t.done = true := by
  obtain ⟨u, c, rfl, -, -⟩ := exec_eq_complete h
  rfl

/-- An error completion is the whole of its effect (R211). -/
theorem exec_eq_of_error {i : Instr} (h : exec i s = .next t) (herror : t.errcode ≠ .ok) :
    t = s.complete t.errcode := by
  obtain ⟨u, c, rfl, hu, -⟩ := exec_eq_complete h
  rw [hu herror, State.complete_errcode]

/-- Settles O10: every completion has the shape of `exec_shape`, which for an error leaves all but STATUS. -/
theorem completionIsAllOrNothing : Obligations.CompletionIsAllOrNothing := by
  intro i s
  obtain ⟨t, h⟩ := exec_answers_next i s
  exact ⟨t, h, exec_inFlight h, exec_done h, exec_eq_of_error h⟩

/-! ## Acceptance, and ILLEGAL words -/

/-- An idle block takes every word written to CMD (R209). -/
theorem State.transact_cmd_of_idle (hidle : s.busy = false) (w : Word) :
    s.transact (.write 0x18#32 .word w) = (s.accept w, .ok) :=
  State.transact_write_csr (r := .cmd) (by simp [hidle]) rfl w

/-- A busy block refuses every word written to CMD (R60, R215). -/
theorem State.transact_cmd_of_busy (hbusy : s.busy = true) (w : Word) :
    s.transact (.write 0x18#32 .word w) = (s, .busErr) :=
  State.transact_of_busy hbusy (.inl (by simp [BusTxn.addr]))

/-- Settles O9: BUSY alone decides between the acceptance and the refusal. -/
theorem commandWriteIsAccepted : Obligations.CommandWriteIsAccepted := by
  intro s w
  exact ⟨fun hidle => State.transact_cmd_of_idle hidle w, fun hbusy => State.transact_cmd_of_busy hbusy w⟩

theorem engineStep_of_decode_error {c : InFlight} {e : Illegal} (hc : s.inFlight = some c)
    (he : decode c.word = .error e) : engineStep s = .next (s.complete .illegalCommand) := by
  simp only [engineStep, hc, he, illegalCompletion, raise_eq]

/-- Settles O8: acceptance does not decode the word, and the engine completes one that does not decode with
ILLEGAL_COMMAND. -/
theorem illegalWordCompletes : Obligations.IllegalWordCompletes := by
  intro s w e he
  refine ⟨fun hidle => State.transact_cmd_of_idle hidle w, ?_⟩
  rintro c hc rfl hturn
  rw [step_of_engine (State.nextTurn_engine hc hturn)]
  exact engineStep_of_decode_error (s := s.popTurn) hc he

/-! ## What the checks of a command answer -/

/-- Two completions that come to the same answer: a commit each, or the same code, one of `cs`. -/
def SameAnswer (cs : List ErrCode) (o o' : Host.Outcome State Fault Refusal) : Prop :=
  ∃ (c : ErrCode) (u u' : State), (c ≠ .ok → c ∈ cs) ∧ o = .next (u.complete c) ∧ o' = .next (u'.complete c)

theorem sameAnswer_commit {cs : List ErrCode} {u u' : State} : SameAnswer cs (commit u) (commit u') :=
  ⟨.ok, u, u', fun h => absurd rfl h, commit_eq u, commit_eq u'⟩

/-- A check that comes out alike for both, before completions that come to the same answer. -/
theorem sameAnswer_guard {cs : List ErrCode} {p : Prop} [Decidable p] {c : ErrCode}
    {o o' : Host.Outcome State Fault Refusal} (hc : c ∈ cs) (h : SameAnswer cs o o') :
    SameAnswer cs (if p then raise c s else o) (if p then raise c t else o') := by
  split
  · exact ⟨c, s, t, fun _ => hc, raise_eq s c, raise_eq t c⟩
  · exact h

/-- The checks of a command raise the codes of its row (R202), and they read nothing that a completion and an
acceptance write (R212). -/
theorem exec_sameAnswer (i : Instr) (s : State) (c : ErrCode) :
    SameAnswer (raisable i) (exec i s) (runCommand i (s.complete c)) := by
  cases i <;> simp only [exec, runCommand]
  case bytesToBits => exact sameAnswer_guard (by decide) (sameAnswer_guard (by decide) sameAnswer_commit)
  case encodeHeader => exact sameAnswer_commit
  case decodeHeader => exact sameAnswer_guard (by decide) (sameAnswer_guard (by decide) sameAnswer_commit)
  case extract => exact sameAnswer_guard (by decide) sameAnswer_commit
  case bitsToBytes | frame | unframe | check | embed | encode =>
    exact sameAnswer_guard (by decide) (sameAnswer_guard (by decide) (sameAnswer_guard (by decide) sameAnswer_commit))
  case decode =>
    exact sameAnswer_guard (by decide) (sameAnswer_guard (by decide) (sameAnswer_guard (by decide)
      (sameAnswer_guard (by decide) (sameAnswer_guard (by decide) sameAnswer_commit))))

/-- Settles O12: the failed command has left its operands, so the checks of the second try answer alike. -/
theorem retryFailsAgain : Obligations.RetryFailsAgain := by
  intro i s t h herror
  obtain ⟨c, u, u', -, hfirst, hretry⟩ := exec_sameAnswer i s t.errcode
  rw [← exec_eq_of_error h herror] at hretry
  obtain rfl : t = u.complete c := by rw [h] at hfirst; injection hfirst
  exact ⟨u'.complete c, hretry, rfl⟩

/-! ## The table of codes -/

theorem exec_errcode_mem_raisable {i : Instr} (h : exec i s = .next t) (herror : t.errcode ≠ .ok) :
    t.errcode ∈ raisable i := by
  obtain ⟨c, u, -, hmem, hexec, -⟩ := exec_sameAnswer i s .ok
  obtain rfl : t = u.complete c := by rw [h] at hexec; injection hexec
  exact hmem herror

/-- A block of 64 pixels and 8 payload bytes, in which both BIT and bit plane 0 of PIX begin with the header of the
value 1. -/
def State.headed : State :=
  (State.writeBit { State.reset with pixMax := 64, payMax := 8 } 0 (encodeHeader 1#32)).writePix 0
    ((encodeHeader 1#32).map fun f => (BitVec.ofBool f).setWidth 8)

theorem State.headed_inv : State.headed.Inv :=
  ((State.Inv.of_empty (by decide) rfl rfl rfl rfl).writeBit (by decide)).writePix (by decide)

/-- `State.headed` with the given lengths. -/
def State.headedWith (pixcnt paylen bitlen : Word) : State :=
  ((State.headed.setPixcnt pixcnt).setPaylen paylen).setBitlen bitlen

theorem State.headedWith_inv (pixcnt paylen bitlen : Word) : (State.headedWith pixcnt paylen bitlen).Inv :=
  ((State.headed_inv.setPixcnt pixcnt).setPaylen paylen).setBitlen bitlen

/-- For each code of the table a block on which every command whose row marks the code raises it: lengths beyond the
memories; no room and no header; a number of bits (BITLEN, or the header's value) that is neither whole bytes nor
PIXCNT; sequences that end with their header, which declares one bit more. -/
def State.failing : ErrCode → State
  | .lengthRange => .headedWith 65#32 9#32 65#32
  | .capacityExceeded | .headerCorrupt => .headedWith 0#32 0#32 0#32
  | .malformedLength | .lengthMismatch => .headedWith 64#32 0#32 1#32
  | .truncatedPayload => .headedWith 32#32 0#32 32#32
  | .ok | .illegalCommand => .headed

theorem State.failing_inv (c : ErrCode) : (State.failing c).Inv := by
  cases c with
  | ok | illegalCommand => exact State.headed_inv
  | capacityExceeded | malformedLength | truncatedPayload | headerCorrupt | lengthMismatch | lengthRange =>
    exact State.headedWith_inv _ _ _

/-- Every mark of the table R202, evaluated. -/
theorem exec_failing (i : Instr) : ∀ c ∈ raisable i, exec i (.failing c) = .next ((State.failing c).complete c) := by
  cases i
  case encodeHeader => exact List.forall_mem_nil _
  all_goals
    simp only [raisable, List.forall_mem_cons, List.not_mem_nil, false_imp_iff, implies_true, and_true]
    and_intros
  all_goals rfl

/-- Settles O11: a command's checks raise the codes of its row only, and each mark of the row has a state that shows
it. -/
theorem raisedCodesAreTheTable : Obligations.RaisedCodesAreTheTable := by
  intro i c hc
  constructor
  · rintro ⟨s, t, -, h, rfl⟩
    exact exec_errcode_mem_raisable h hc
  · intro hmem
    exact ⟨.failing c, (State.failing c).complete c, State.failing_inv c, exec_failing i c hmem, rfl⟩

/-! ## BUSY rises only by acceptance -/

@[simp] theorem State.answered_busy (l : List HostOp) (r : BusAnswer) : (s.answered l r).busy = s.busy := rfl
@[simp] theorem State.halt_busy (l : List HostOp) : (s.halt l).busy = s.busy := rfl

/-- Of all transactions only the acceptance of a CMD word raises BUSY (R209, R215). -/
theorem State.transact_raises_busy (hidle : s.busy = false) {x : BusTxn} (hbusy : (s.transact x).1.busy = true) :
    ∃ w : Word, x = .write 0x18#32 .word w ∧ (s.transact x).1 = s.accept w := by
  cases x with
  | read a n => simp [State.transact, hidle] at hbusy
  | write a n v =>
    rw [State.transact] at hbusy ⊢
    rcases State.busWrite_cases s a n v with h | ⟨r, haccess, h⟩ | ⟨w, i, -, h⟩
    · simp [h, hidle] at hbusy
    · obtain rfl : r = .cmd := by
        by_contra hr
        simp [h, State.csrWrite_busy hr, hidle] at hbusy
      obtain ⟨haddr, rfl⟩ := State.access_csr haccess
      obtain rfl : a = 0x18#32 := BitVec.eq_of_toNat_eq haddr
      exact ⟨v, rfl, by rw [h]; rfl⟩
    · simp [h, hidle] at hbusy

theorem State.hostStep_raises_busy (hidle : s.busy = false) (hbusy : s.hostStep.busy = true) :
    ∃ w : Word, s.hostOps.head? = some (.txn (.write 0x18#32 .word w)) ∧
      s.hostStep.inFlight = some { word := w, fill := s.fill } := by
  rcases State.hostStep_cases s with ⟨-, h⟩ | ⟨x, l, -, hops, h⟩ | ⟨l, l', r, -, -, h⟩ | ⟨l, -, -, h⟩
  · simp [h, hidle] at hbusy
  · rw [h] at hbusy ⊢
    obtain ⟨w, rfl, haccept⟩ := State.transact_raises_busy hidle hbusy
    exact ⟨w, by rw [hops]; rfl, by rw [State.answered_inFlight, haccept, State.accept_inFlight]⟩
  · simp [h, hidle] at hbusy
  · simp [h, hidle] at hbusy

/-- With no command in flight the engine has no step (R210; log entry 2). -/
theorem engineStep_of_idle (hidle : s.busy = false) : engineStep s = .next s := by
  have hnone : s.inFlight = none := by simpa [State.busy] using hidle
  simp only [engineStep, hnone]

/-- Settles O15: an idle engine and a reset leave the block idle, and the host raises BUSY by a CMD write alone. -/
theorem busyRisesOnlyByCommandWrite : Obligations.BusyRisesOnlyByCommandWrite := by
  intro s t h hidle hbusy
  rcases step_cases h with ⟨-, hengine⟩ | ⟨-, rfl⟩ | ⟨-, rfl⟩
  · rw [engineStep_of_idle (s := s.popTurn) hidle] at hengine
    injection hengine with hengine
    rw [← hengine, State.popTurn_busy, hidle] at hbusy
    cases hbusy
  · exact State.hostStep_raises_busy (s := s.popTurn) hidle hbusy
  · cases hbusy

/-! ## An accepted command completes -/

theorem engineStep_of_busy (hbusy : s.busy = true) :
    ∃ t, engineStep s = .next t ∧ t.busy = false ∧ t.done = true := by
  obtain ⟨c, hc⟩ := Option.isSome_iff_exists.mp hbusy
  cases hdecode : decode c.word with
  | ok i =>
    obtain ⟨t, h⟩ := exec_answers_next i s
    exact ⟨t, by rw [engineStep_of_decode_ok hc hdecode, h], by simp [State.busy, exec_inFlight h], exec_done h⟩
  | error e => exact ⟨s.complete .illegalCommand, engineStep_of_decode_error hc hdecode, rfl, rfl⟩

@[simp] theorem State.transact_turns (x : BusTxn) : (s.transact x).1.turns = s.turns := by
  cases x with
  | read a n => rfl
  | write a n v =>
    rw [State.transact]
    rcases State.busWrite_cases s a n v with h | ⟨r, -, h⟩ | ⟨w, i, -, h⟩
    · rw [h]
    · rw [h]; cases r <;> rfl
    · rw [h]; cases w <;> rfl

@[simp] theorem State.hostStep_turns (s : State) : s.hostStep.turns = s.turns := by
  rcases State.hostStep_cases s with ⟨-, h⟩ | ⟨x, l, -, -, h⟩ | ⟨l, l', r, -, -, h⟩ | ⟨l, -, -, h⟩
  all_goals simp [h]

theorem State.hostStep_busy_of_busy (hbusy : s.busy = true) : s.hostStep.busy = true := by
  rw [State.busy, State.hostStep_inFlight_of_busy hbusy]
  exact hbusy

/-- One step to the completion where the engine moves next. -/
theorem run_one_completes (hbusy : s.busy = true) (hturn : s.nextTurn = .engine) :
    ∃ t, core.run 1 s = .next t ∧ t.busy = false ∧ t.done = true := by
  rw [core_run_one, step_of_engine hturn]
  exact engineStep_of_busy (s := s.popTurn) hbusy

/-- By induction on the listed turns: the host's turns keep the command in flight, and the first turn of the engine,
listed or by default, completes it. -/
theorem run_completes {l : List Turn} (hturns : s.turns = l) (hbusy : s.busy = true) (hreset : ∀ x ∈ l, x ≠ .reset) :
    ∃ n t, n ≤ l.length + 1 ∧ core.run n s = .next t ∧ t.busy = false ∧ t.done = true := by
  induction l generalizing s with
  | nil =>
    obtain ⟨t, h⟩ := run_one_completes hbusy (by simp [State.nextTurn, hturns, hbusy])
    exact ⟨1, t, le_rfl, h⟩
  | cons x l ih =>
    have hturn : s.nextTurn = x := State.nextTurn_of_head (by rw [hturns]; rfl)
    cases x with
    | engine =>
      obtain ⟨t, h⟩ := run_one_completes hbusy hturn
      exact ⟨1, t, by omega, h⟩
    | host =>
      have hrest : s.popTurn.hostStep.turns = l := by
        rw [State.hostStep_turns, State.popTurn_turns, hturns, List.tail_cons]
      obtain ⟨n, t, hn, h⟩ := ih hrest (State.hostStep_busy_of_busy (s := s.popTurn) hbusy)
        fun x hx => hreset x (List.mem_cons_of_mem _ hx)
      rw [← core_run_succ (step_of_host hturn)] at h
      exact ⟨n + 1, t, Nat.succ_le_succ hn, h⟩
    | reset => exact absurd rfl (hreset .reset List.mem_cons_self)

/-- Settles O18, by induction on the listed turns. -/
theorem acceptedCommandCompletes : Obligations.AcceptedCommandCompletes := by
  intro s hbusy hreset
  exact run_completes rfl hbusy hreset

/-! ## The interrupt -/

/-- Every completion, successful or not, raises the interrupt where it is enabled (R213). -/
theorem exec_irq {i : Instr} (h : exec i s = .next t) : t.irq = s.irqen := by
  rw [State.irq, exec_done h, (exec_keepsFixed h).irqen, Bool.true_and]

/-- Settles O33: a completion sets DONE and keeps IRQEN; each of the others clears one of the two. -/
theorem interruptRisesAndFalls : Obligations.InterruptRisesAndFalls := by
  intro s
  have hstatus (v : Word) : s.transact (.write 0x14#32 .word v) = (s.clearDone v, .ok) :=
    State.transact_write_csr (r := .status) (fun _ => rfl) rfl v
  have hctrl (v : Word) : s.transact (.write 0x10#32 .word v) = (s.setCtrl v, .ok) :=
    State.transact_write_csr (r := .ctrl) (fun _ => rfl) rfl v
  refine ⟨rfl, fun i t => exec_irq, fun v hv => ?_, fun w hidle => ?_, fun v hv => ?_, rfl⟩
  · rw [hstatus]
    exact ⟨by simp [State.irq, hv], rfl⟩
  · rw [State.transact_cmd_of_idle hidle]
    rfl
  · rw [hctrl]
    exact ⟨by rw [State.irq, State.setCtrl_irqen, hv, Bool.and_false], rfl, rfl⟩

end Sys2Proof.Machine
end

section
/-! PROOFS. The reset and hazards family: the power-on state, what a reset step sets and forgets, and a CTRL write while
a command is in flight. -/

namespace Sys2Proof.Machine

variable {s u : State}

/-! ## CTRL and STATUS with every field clear -/

theorem State.ctrlWord_eq_zero (hirqen : s.irqen = false) (hfill : s.fill = false) : s.ctrlWord = 0#32 := by
  rw [State.ctrlWord, hirqen, hfill]
  rfl

theorem State.statusWord_eq_zero (hidle : s.busy = false) (hdone : s.done = false) (hok : s.errcode = .ok) :
    s.statusWord = 0#32 := by
  rw [State.statusWord, hidle, hdone, hok]
  rfl

/-- Settles O2: every register is a literal of `State.reset`, and the parameters' bounds are `config_paramsWf`. -/
theorem powerOnStateIsIdle : Obligations.PowerOnStateIsIdle :=
  ⟨State.ctrlWord_eq_zero rfl rfl, State.statusWord_eq_zero rfl rfl rfl, rfl, rfl, rfl, rfl, rfl, rfl,
    paramsWf_iff.mp config_paramsWf⟩

/-! ## The reset step -/

theorem step_of_reset (h : s.nextTurn = .reset) : step s = .next s.popTurn.resetStep := by
  rw [step, h]

/-- Settles O1: the step is `State.resetStep`, which keeps of the registers only the two parameters. -/
theorem resetStepSetsRegisters : Obligations.ResetStepSetsRegisters := by
  intro s hturn
  exact ⟨s.popTurn.resetStep, step_of_reset (State.nextTurn_of_head hturn), State.ctrlWord_eq_zero rfl rfl,
    State.statusWord_eq_zero rfl rfl rfl, rfl, rfl, rfl, rfl, rfl, rfl, rfl, rfl, rfl, rfl⟩

/-! No cell is listed after a reset step, so each reads as the draw of the new epoch (R242). -/

@[simp] theorem State.resetStep_pixCell (i : Nat) : s.resetStep.pixCell i = Config.pixDraw (s.epoch + 1) i := rfl
@[simp] theorem State.resetStep_payCell (i : Nat) : s.resetStep.payCell i = Config.payDraw (s.epoch + 1) i := rfl
@[simp] theorem State.resetStep_bitCell (i : Nat) : s.resetStep.bitCell i = Config.bitDraw (s.epoch + 1) i := rfl

/-- Settles O3: `State.resetStep` empties the memories under a new epoch, and using up the turn changes neither. -/
theorem resetStepForgetsMemories : Obligations.ResetStepForgetsMemories := by
  intro s hturn
  exact ⟨s.popTurn.resetStep, step_of_reset (State.nextTurn_of_head hturn), rfl, rfl, rfl, rfl, fun i =>
    ⟨s.popTurn.resetStep_pixCell i, s.popTurn.resetStep_payCell i, s.popTurn.resetStep_bitCell i⟩⟩

/-! ## A CTRL write while busy -/

/-- CUR_FILL was sampled at acceptance, so CTRL does not reach it (R38). -/
theorem State.setCtrl_curFill (hbusy : s.busy = true) (v : Word) : (s.setCtrl v).curFill = s.curFill := by
  obtain ⟨c, hc⟩ := Option.isSome_iff_exists.mp hbusy
  rw [State.curFill, State.curFill, State.setCtrl_inFlight, hc]

/-- A completion, of a command or of an ILLEGAL word, ends idle with DONE and keeps CTRL (R210, R205). -/
theorem completion_keeps_ctrl (h : illegalCompletion s = .next u ∨ ∃ i, exec i s = .next u) :
    u.busy = false ∧ u.done = true ∧ u.irqen = s.irqen ∧ u.fill = s.fill := by
  rcases h with h | ⟨i, h⟩
  · obtain rfl : s.complete .illegalCommand = u := by rw [illegalCompletion, raise_eq] at h; injection h
    exact ⟨rfl, rfl, rfl, rfl⟩
  · have hkeep := exec_keepsFixed h
    exact ⟨by rw [State.busy, exec_inFlight h]; rfl, exec_done h, hkeep.irqen, hkeep.fill⟩

/-- Settles O34: CTRL is open while busy, the write leaves what is in flight, and every completion keeps CTRL for the
interrupt and for the next acceptance. -/
theorem controlWriteWhileBusy : Obligations.ControlWriteWhileBusy := by
  intro s v
  refine ⟨s.setCtrl v, State.transact_write_csr (r := .ctrl) (fun _ => rfl) rfl v, rfl,
    fun hbusy => ⟨rfl, State.setCtrl_curFill hbusy v, fun u hu => ?_⟩⟩
  obtain ⟨hidle, hdone, hirqen, hfill⟩ := completion_keeps_ctrl hu
  refine ⟨by rw [State.irq, hdone, hirqen, State.setCtrl_irqen, Bool.true_and], fun w => ?_⟩
  rw [State.transact_cmd_of_idle hidle]
  exact ⟨rfl, by rw [State.accept_curFill, hfill, State.setCtrl_fill]⟩

end Sys2Proof.Machine
end
